-- ==== Sys2Proof/Word.lean ====
section
/-! DEFINITION. The widths of the block: bytes, command words, response words (00_scope.md R5, R7, R8). -/
namespace Sys2Proof

/-- A byte (20_memory.md R30: "A byte is 8 bits"). -/
abbrev Byte := BitVec 8

/-- A byte sequence; index 0 is the first byte (00_scope.md R8(b)). -/
abbrev Bytes := List Byte

/-- The command word `cmd[15:0]` (30_encoding.md R45). -/
abbrev CmdWord := BitVec 16

/-- A 32-bit word: a response word (30_encoding.md R51, R52), or a word inside SHA-1 (41_hmac_sha1.md). -/
abbrev Word32 := BitVec 32

end Sys2Proof
end

