-- ==== Sys2Proof/Machine/Operands.lean ====
section
/-! DEFINITION. The fields of a command word and its three formats (30_encoding.md R45, R46, R47). -/
namespace Sys2Proof.Machine

/-- `op = cmd[15:12]` (30_encoding.md R45). -/
def opField (w : CmdWord) : BitVec 4 := w.extractLsb' 12 4

/-- `hi = cmd[11:8]` (30_encoding.md R45). -/
def hiField (w : CmdWord) : BitVec 4 := w.extractLsb' 8 4

/-- `b = cmd[7:0]`, used as is (30_encoding.md R47). -/
def byteField (w : CmdWord) : Byte := w.extractLsb' 0 8

/-- `n = cmd[11:0]`, used as is (30_encoding.md R47). -/
def lengthField (w : CmdWord) : BitVec 12 := w.extractLsb' 0 12

/-- Format Z: the opcode above twelve zero bits (30_encoding.md R46). -/
def formatZ (op : BitVec 4) : CmdWord := op ++ 0#12

/-- Format B: the opcode, four zero bits, the byte (30_encoding.md R46). -/
def formatB (op : BitVec 4) (b : Byte) : CmdWord := op ++ 0#4 ++ b

/-- Format N: the opcode above the 12-bit length (30_encoding.md R46). -/
def formatN (op : BitVec 4) (n : BitVec 12) : CmdWord := op ++ n

end Sys2Proof.Machine
end

