-- ==== Sys2Proof/Syntax.lean ====
section
/-! DEFINITION. The six host commands (30_encoding.md R48), one constructor for each row of spec/opcode_table.json. -/
namespace Sys2Proof

/-- A host command. The operand types are the operand ranges of 30_encoding.md R47, so no operand is out of range. -/
inductive Instr where
  /-- `CLR` (40_host_commands.md R61). -/
  | clr
  /-- `KEYB b` (40_host_commands.md R62). -/
  | keyb (b : Byte)
  /-- `CTRB b` (40_host_commands.md R63). -/
  | ctrb (b : Byte)
  /-- `GO n` (40_host_commands.md R64). -/
  | go (n : BitVec 12)
  /-- `RDSTAT` (40_host_commands.md R65). -/
  | rdstat
  /-- `RDCODE` (40_host_commands.md R66). -/
  | rdcode
  deriving DecidableEq, Repr

end Sys2Proof
end

