-- ==== Sys2Proof/WellFormed.lean ====
section
/-! DEFINITION. Well-formed commands as a listing writes them (30_encoding.md R46, R47, R53): the mnemonic, and an operand
exactly where the format has one, inside its range. A term of `Instr` is well formed by its types. -/
namespace Sys2Proof

/-- The six mnemonics of 30_encoding.md R53. -/
inductive Mnemonic where
  | clr | keyb | ctrb | go | rdstat | rdcode
  deriving DecidableEq, Repr

/-- The three formats of 30_encoding.md R46. -/
inductive Format where
  /-- No operand. -/
  | z
  /-- One byte operand. -/
  | b
  /-- One 12-bit length operand. -/
  | n
  deriving DecidableEq, Repr

/-- The format column of 30_encoding.md R48. -/
def Mnemonic.format : Mnemonic → Format
  | .clr => .z
  | .keyb => .b
  | .ctrb => .b
  | .go => .n
  | .rdstat => .z
  | .rdcode => .z

/-- A command as written in a listing, its operand an unsigned number of any size (30_encoding.md R53). -/
structure Source where
  mnemonic : Mnemonic
  operand : Option Nat
  deriving DecidableEq, Repr

/-- Whether a format admits an operand: "an operand out of range is an assembly error" (30_encoding.md R53). -/
def Format.admits : Format → Option Nat → Bool
  | .z, none => true
  | .z, some _ => false
  | .b, none => false
  | .b, some v => decide (v < 256)
  | .n, none => false
  | .n, some v => decide (v < 4096)

/-- The check a listing's command must pass (30_encoding.md R53). -/
def Source.wellFormed (s : Source) : Bool := s.mnemonic.format.admits s.operand

/-- A command's mnemonic. -/
def Instr.mnemonic : Instr → Mnemonic
  | .clr => .clr
  | .keyb _ => .keyb
  | .ctrb _ => .ctrb
  | .go _ => .go
  | .rdstat => .rdstat
  | .rdcode => .rdcode

/-- A command as a listing writes it. -/
def Instr.source : Instr → Source
  | .clr => ⟨.clr, none⟩
  | .keyb b => ⟨.keyb, some b.toNat⟩
  | .ctrb b => ⟨.ctrb, some b.toNat⟩
  | .go n => ⟨.go, some n.toNat⟩
  | .rdstat => ⟨.rdstat, none⟩
  | .rdcode => ⟨.rdcode, none⟩

/-- A command is well formed when a listing may write it. -/
def Instr.wellFormed (i : Instr) : Bool := i.source.wellFormed

end Sys2Proof
end

