-- ==== Sys2Proof/Decode.lean ====
section
/-! DEFINITION. The decoder, total on all 65 536 words, the encoder, and the opcode map (30_encoding.md R48, R49, R50). -/
namespace Sys2Proof

open Sys2Proof.Machine

/-- Why a word is illegal (30_encoding.md R49). The block keeps no record of it (40_host_commands.md R67(b)). -/
inductive IllegalWord where
  /-- Opcode 0 or 7 to 15. -/
  | unassignedOpcode
  /-- An assigned opcode with a must-be-zero bit set. -/
  | mustBeZero
  deriving DecidableEq, Repr

/-- What a word decodes to (30_encoding.md R50). -/
inductive Decoded where
  | command (i : Instr)
  | illegal (why : IllegalWord)
  deriving DecidableEq, Repr

/-- The kind of an illegal word, from the lists of 30_encoding.md R49. -/
def illegalKind (w : CmdWord) : IllegalWord :=
  if opField w = 0x0#4 ∨ 0x7#4 ≤ opField w then .unassignedOpcode else .mustBeZero

/-- `Decode(w)`, in the order of 30_encoding.md R50. -/
def decode (w : CmdWord) : Decoded :=
  if w = 0x1000#16 then .command .clr
  else if w.extractLsb' 8 8 = 0x20#8 then .command (.keyb (byteField w))
  else if w.extractLsb' 8 8 = 0x30#8 then .command (.ctrb (byteField w))
  else if opField w = 0x4#4 then .command (.go (lengthField w))
  else if w = 0x5000#16 then .command .rdstat
  else if w = 0x6000#16 then .command .rdcode
  else .illegal (illegalKind w)

/-- The `op` column of the opcode map (30_encoding.md R48). -/
def opcode : Mnemonic → BitVec 4
  | .clr => 0x1#4
  | .keyb => 0x2#4
  | .ctrb => 0x3#4
  | .go => 0x4#4
  | .rdstat => 0x5#4
  | .rdcode => 0x6#4

/-- `Encode`, from the opcode map and the formats (30_encoding.md R46, R48, R50). -/
def encode : Instr → CmdWord
  | .clr => formatZ (opcode .clr)
  | .keyb b => formatB (opcode .keyb) b
  | .ctrb b => formatB (opcode .ctrb) b
  | .go n => formatN (opcode .go) n
  | .rdstat => formatZ (opcode .rdstat)
  | .rdcode => formatZ (opcode .rdcode)

/-- The `match` column of the opcode map (30_encoding.md R48). -/
def matchBits : Mnemonic → CmdWord
  | .clr => 0x1000#16
  | .keyb => 0x2000#16
  | .ctrb => 0x3000#16
  | .go => 0x4000#16
  | .rdstat => 0x5000#16
  | .rdcode => 0x6000#16

/-- The `mask` column of the opcode map (30_encoding.md R48). -/
def maskBits : Mnemonic → CmdWord
  | .clr => 0xFFFF#16
  | .keyb => 0xFF00#16
  | .ctrb => 0xFF00#16
  | .go => 0xF000#16
  | .rdstat => 0xFFFF#16
  | .rdcode => 0xFFFF#16

/-- "A word `w` selects a command when `(w & mask) = match`" (30_encoding.md R48). -/
def selects (m : Mnemonic) (w : CmdWord) : Bool := w &&& maskBits m == matchBits m

/-- The command a decoded word stands for, if it is one. -/
def Decoded.command? : Decoded → Option Instr
  | .command i => some i
  | .illegal _ => none

/-- The command word whose low `nbits` bits are those of `w` and whose bits above are 0 (spec/opcode_table.json numbers
bits as 30_encoding.md R45 does). Log entry 11. -/
def tableWord (nbits w : Nat) : CmdWord := BitVec.ofNat 16 (w % 2 ^ nbits)

/-- The decoder on a row of spec/opcode_table.json. Every command is one 16-bit word (30_encoding.md R45), so a longer
row is no command. Log entry 11. -/
def decodeTableWord (nbits w : Nat) : Option Instr :=
  if nbits ≤ 16 then (decode (tableWord nbits w)).command? else none

end Sys2Proof
end

