-- ==== Sys2Proof/Config.lean ====
section
/-! DEFINITION. What an implementation fixes (00_scope.md R6) and the fixed constants of the block (R7). -/
namespace Sys2Proof

/-- How far the key buffer's capacity exceeds the least one the spec admits. Without a body, so that every statement holds
for every admitted capacity: `KEY_MAX` is 20 to 4095 (00_scope.md R6; 92_eei_decisions.md D6). Log entry 3. -/
opaque Config.keyRoom : Fin 4076

/-- `KEY_MAX`, the capacity of the key buffer in bytes (00_scope.md R6). Log entry 3. -/
def Config.keyMax : Nat := Config.keyRoom.val + 20

/-- `CTR_LEN`: the HMAC message is always exactly 8 bytes (00_scope.md R7). -/
abbrev Config.ctrLen : Nat := 8

/-- `DIGEST_LEN` (00_scope.md R7). -/
abbrev Config.digestLen : Nat := 20

/-- The SHA-1 block length `B` (00_scope.md R7, 41_hmac_sha1.md R82). -/
abbrev Config.blockLen : Nat := 64

/-- `MODULUS`, one million (00_scope.md R7, 43_mod_reducer.md R111). -/
abbrev Config.modulus : Nat := 1000000

end Sys2Proof
end

