-- ==== Sys2Proof/Machine/State.lean ====
section
/-! DEFINITION. The state: the architectural tuple of 10_state.md R10, the response port of 00_scope.md R5, and the model's
own list of the clock edges to come; the reasons a step could stop (none); the reset state (10_state.md R22). -/
namespace Sys2Proof.Machine

/-- What one rising edge of `clk` sees: the input ports of 00_scope.md R5, and whether a running computation's completion
is due at it (60_exceptions.md R135), which the spec leaves to the free duration `T_ENGINE` (44_engine.md R122). Log entries 1, 2. -/
structure Edge where
  /-- The reset input (70_reset_and_hazards.md R150). -/
  rst : Bool
  /-- 1 when `cmd` holds a command word to execute at this edge (00_scope.md R5). -/
  cmdValid : Bool
  /-- The command word (30_encoding.md R45). -/
  cmd : CmdWord
  /-- The engine's completion is due at this edge (60_exceptions.md R135). -/
  due : Bool
  deriving DecidableEq, Repr

/-- The state of one instance of the block. -/
structure State where
  /-- `KEY`, the key buffer; `KLEN` is its length (10_state.md R11, R12). -/
  key : Bytes
  /-- `CTR`, the counter buffer, most significant byte first; `CLEN` is its length (10_state.md R13, R14). -/
  ctr : Bytes
  /-- `CODE` (10_state.md R15). -/
  code : BitVec 20
  /-- `BUSY` (10_state.md R16). -/
  busy : Bool
  /-- `DONE` (10_state.md R17). -/
  done : Bool
  /-- `ERR`, five sticky flags (10_state.md R18). -/
  err : BitVec 5
  /-- The output port `rsp_valid` (00_scope.md R5, 70_reset_and_hazards.md R160). Log entry 4. -/
  rspValid : Bool
  /-- The output port `rsp` (00_scope.md R5, 70_reset_and_hazards.md R160). Log entry 4. -/
  rsp : Word32
  /-- The model's own: the clock edges still to come, first edge first. It stands for the host, the reset agent and the
  engine's duration (00_scope.md R4). Log entry 1. -/
  inputs : List Edge
  deriving DecidableEq, Repr

/-- The reasons a step stops with a fault: none, and nothing raises one. "no host step is ever stuck, blocked or delayed"
(40_host_commands.md R60), the datapath "raises no error, ever" (60_exceptions.md R130), and an error flag is not a trap
(60_exceptions.md R131). Safe or unsafe does not arise: no step faults. Log entry 7. -/
inductive Fault where
  deriving DecidableEq, Repr

/-- The reasons a step is refused. -/
inductive Refusal where
  /-- The instruction has no meaning yet. Raised only by a refused arm of `exec`, of which there is none; it would be safe. -/
  | notModelled (mnemonic : String)
  deriving DecidableEq, Repr

/-- The three outcomes of a step of this machine. -/
abbrev Result := Host.Outcome State Fault Refusal

/-- The state after `Reset`: every piece at the value 10_state.md R22 states. `inputs` is the model's own (log entry 1). -/
def State.reset : State where
  key := []
  ctr := []
  code := 0#20
  busy := false
  done := false
  err := 0#5
  rspValid := false
  rsp := 0#32
  inputs := []

end Sys2Proof.Machine
end

