-- ==== Sys2Proof/Machine/Flags.lean ====
section
/-! DEFINITION. The error flags (10_state.md R18, 60_exceptions.md R130), the two length counters (10_state.md R12, R14) and the
two response views (30_encoding.md R51, R52). -/
namespace Sys2Proof.Machine

/-- The five sticky error flags (10_state.md R18). -/
inductive ErrFlag where
  /-- `E_ILL`: a word that is not one of the six commands. -/
  | ill
  /-- `E_BUSY`: `KEYB`, `CTRB` or `GO` while `BUSY = 1`. -/
  | busy
  /-- `E_KEYOVF`: `KEYB` while `KLEN = KEY_MAX`. -/
  | keyOvf
  /-- `E_CTROVF`: `CTRB` while `CLEN = 8`. -/
  | ctrOvf
  /-- `E_SEQ`: a `GO` refused for sequence reasons. -/
  | seq
  deriving DecidableEq, Repr

/-- The flag's bit in `ERR` (10_state.md R18). -/
def ErrFlag.index : ErrFlag → Nat
  | .ill => 0
  | .busy => 1
  | .keyOvf => 2
  | .ctrOvf => 3
  | .seq => 4

/-- The value of `ERR` when the flag alone is set (60_exceptions.md R130). -/
def ErrFlag.mask (f : ErrFlag) : BitVec 5 := 1#5 <<< f.index

/-- Whether a flag is set. -/
def State.flag (s : State) (f : ErrFlag) : Bool := s.err.getLsbD f.index

/-- `KLEN`, 12 bits: the number of bytes in `KEY` (10_state.md R12). Log entry 6 for lengths no run reaches. -/
def State.klen (s : State) : BitVec 12 := BitVec.ofNat 12 s.key.length

/-- `CLEN`, 4 bits: the number of bytes in `CTR` (10_state.md R14). Log entry 6 for lengths no run reaches. -/
def State.clen (s : State) : BitVec 4 := BitVec.ofNat 4 s.ctr.length

/-- The `STATUS` view, field by field from bit 31 down (30_encoding.md R51). Irreducible, so that comparing
two states does not unfold the bits. -/
@[irreducible] def State.status (s : State) : Word32 :=
  0#4 ++ s.klen ++ s.clen ++ 0#3 ++ s.err ++ 0#2 ++ BitVec.ofBool s.done ++ BitVec.ofBool s.busy

/-- The `CODEWORD` view: `VALID`, eleven reserved zeros, `CODE` (30_encoding.md R52).
Irreducible, like `State.status`. -/
@[irreducible] def State.codeword (s : State) : Word32 := BitVec.ofBool s.done ++ 0#11 ++ s.code

end Sys2Proof.Machine
end

