-- ==== Sys2Proof/Machine/Ops.lean ====
section
/-! DEFINITION. The named operations over the buffers, the registers and the response port; raising an error flag, which is
all this block has in place of taking an exception (60_exceptions.md R131), and the clearing that undoes it (R132); byte order. -/
namespace Sys2Proof.Machine

/-! Byte order (00_scope.md R8(e)) and rotation (R8(h)). -/

/-- `BE_4(w)` (00_scope.md R8(e)). -/
def be4 (w : Word32) : Bytes :=
  [w.extractLsb' 24 8, w.extractLsb' 16 8, w.extractLsb' 8 8, w.extractLsb' 0 8]

/-- `BE_8(v)` (00_scope.md R8(e)): the counter as the HMAC message, most significant byte first (20_memory.md R33). -/
def be8 (v : BitVec 64) : Bytes := be4 (v.extractLsb' 32 32) ++ be4 (v.extractLsb' 0 32)

/-- `FromBE(X)` (00_scope.md R8(e)). -/
def fromBE (x : Bytes) : Nat := x.foldl (fun n b => 256 * n + b.toNat) 0

/-- `ROTL^n(x)` on a 32-bit word (00_scope.md R8(h)). -/
def rotl (n : Nat) (x : Word32) : Word32 := (x <<< n) ||| (x >>> (32 - n))

/-! The buffers `KEY` and `CTR` (20_memory.md R30 to R32). A byte at or beyond the length does not exist. -/

/-- `MemRead(space, addr, n)`: the bytes `space[addr .. addr+n]` (00_scope.md R9). -/
def memRead (buf : Bytes) (addr n : Nat) : Bytes := (buf.drop addr).take n

/-- The byte at an address of a buffer, none where none exists (10_state.md R11). -/
def memReadByte (buf : Bytes) (addr : Nat) : Option Byte := buf[addr]?

/-- `MemWrite(space, addr, n, v)` with `n = |v|` (00_scope.md R9). The block writes one byte at the buffer's length only. -/
def memWrite (buf : Bytes) (addr : Nat) (v : Bytes) : Bytes :=
  buf.take addr ++ v ++ buf.drop (addr + v.length)

/-- A buffer within its capacity (20_memory.md R30). -/
def Memory.fits (capacity : Nat) (buf : Bytes) : Bool := decide (buf.length ≤ capacity)

/-- The canonical form of the two buffers: each holds its existing bytes, from address 0 without a gap, within its
capacity (20_memory.md R30, 10_state.md R21 I1). Log entry 8. -/
def Memory.wf (s : State) : Bool :=
  Memory.fits Config.keyMax s.key && Memory.fits Config.ctrLen s.ctr

/-! The response port (70_reset_and_hazards.md R160). -/

/-- `respond(w)` (00_scope.md R9): the port holds `w` for the cycle that follows. -/
def State.respond (w : Word32) (s : State) : State := { s with rspValid := true, rsp := w }

/-- A step with response `none`: `rsp_valid = 0` and `rsp = 0` in the cycle that follows (70_reset_and_hazards.md R160). -/
def State.noResponse (s : State) : State := { s with rspValid := false, rsp := 0#32 }

/-- The response of the step that led to this state (40_host_commands.md R60). -/
def State.response (s : State) : Option Word32 := if s.rspValid then some s.rsp else none

/-! Registers. -/

/-- The tuple `(KEY, CTR, CODE, BUSY, DONE, ERR)`, the complete architectural state (10_state.md R10). -/
def State.arch (s : State) : Bytes × Bytes × BitVec 20 × Bool × Bool × BitVec 5 :=
  (s.key, s.ctr, s.code, s.busy, s.done, s.err)

/-- `DONE <- 0; CODE <- 0`: no code is left readable (40_host_commands.md R64). -/
def State.clearResult (s : State) : State := { s with done := false, code := 0#20 }

/-- `KEY <- empty; CTR <- empty`: the secret and the counter are erased (44_engine.md R121, R124). -/
def State.erase (s : State) : State := { s with key := [], ctr := [] }

/-- `BUSY <- 1`: `EngineComplete` becomes enabled (40_host_commands.md R64). -/
def State.start (s : State) : State := { s with busy := true }

/-- `CODE <- c; DONE <- 1; BUSY <- 0` (44_engine.md R121). -/
def State.finish (c : BitVec 20) (s : State) : State := { s with code := c, done := true, busy := false }

/-- `MemWrite(KEY, KLEN, 1, b)` (20_memory.md R31). -/
def State.appendKey (b : Byte) (s : State) : State := { s with key := memWrite s.key s.key.length [b] }

/-- `MemWrite(CTR, CLEN, 1, b)` (20_memory.md R31). -/
def State.appendCtr (b : Byte) (s : State) : State := { s with ctr := memWrite s.ctr s.ctr.length [b] }

/-- Every architectural register at its reset value: what `CLR` and `Reset` both do (40_host_commands.md R61,
70_reset_and_hazards.md R150). It is also the one way back from an error (60_exceptions.md R132). -/
def State.cleared (s : State) : State :=
  { s with key := [], ctr := [], code := 0#20, busy := false, done := false, err := 0#5 }

/-- The `Reset` step (70_reset_and_hazards.md R150). The edges to come are the world's and stay. -/
def State.resetStep (s : State) : State := s.cleared.noResponse

/-! Errors. -/

/-- `raise E_X` (00_scope.md R9): the sticky flag is set; no control transfer and no saved state (60_exceptions.md R131). -/
def State.raise (f : ErrFlag) (s : State) : State := { s with err := s.err ||| f.mask }

/-- A command that ends by raising a flag and changes nothing else (40_host_commands.md, preamble). -/
def reject (f : ErrFlag) (s : State) : Result := .next (s.raise f).noResponse

/-- The check that comes first in `KEYB`, `CTRB` and `GO`: `BUSY = 1` raises `E_BUSY` and nothing else is checked
(60_exceptions.md R134). -/
def unlessBusy (s : State) (body : Result) : Result := if s.busy then reject .busy s else body

/-- The illegal word (40_host_commands.md R67): `E_ILL`, whatever the state. -/
def illegalWord (s : State) : Result := reject .ill s

/-- The conditions under which an idle block refuses `GO n` (40_host_commands.md R64, 60_exceptions.md R130). -/
def seqError (n : BitVec 12) (s : State) : Bool :=
  s.err != 0#5 || s.ctr.length != Config.ctrLen || s.key.length != n.toNat

end Sys2Proof.Machine
end

