-- ==== Sys2Proof/Machine/Control.lean ====
section
/-! DEFINITION. The control commands `CLR` and `GO` (40_host_commands.md R61, R64). -/
namespace Sys2Proof.Machine

/-- `CLR` (40_host_commands.md R61): accepted in every state, it cancels a running computation. -/
def execClr (s : State) : Result := .next s.cleared.noResponse

/-- `GO n` (40_host_commands.md R64). -/
def execGo (n : BitVec 12) (s : State) : Result :=
  unlessBusy s <|
    if seqError n s then reject .seq s.clearResult
    else .next s.clearResult.start.noResponse

end Sys2Proof.Machine
end

