-- ==== Sys2Proof/Machine/Load.lean ====
section
/-! DEFINITION. The load commands `KEYB` and `CTRB` (40_host_commands.md R62, R63). -/
namespace Sys2Proof.Machine

/-- `KEYB b` (40_host_commands.md R62). -/
def execKeyb (b : Byte) (s : State) : Result :=
  unlessBusy s <|
    if s.key.length = Config.keyMax then reject .keyOvf s
    else .next (s.appendKey b).noResponse

/-- `CTRB b` (40_host_commands.md R63). -/
def execCtrb (b : Byte) (s : State) : Result :=
  unlessBusy s <|
    if s.ctr.length = Config.ctrLen then reject .ctrOvf s
    else .next (s.appendCtr b).noResponse

end Sys2Proof.Machine
end

