-- ==== Sys2Proof/Machine/Read.lean ====
section
/-! DEFINITION. The read commands `RDSTAT` and `RDCODE` (40_host_commands.md R65, R66). -/
namespace Sys2Proof.Machine

/-- `RDSTAT` (40_host_commands.md R65): the `STATUS` view; no state of the block changes. -/
def execRdstat (s : State) : Result := .next (s.respond s.status)

/-- `RDCODE` (40_host_commands.md R66): the `CODEWORD` view; no state of the block changes. -/
def execRdcode (s : State) : Result := .next (s.respond s.codeword)

end Sys2Proof.Machine
end

