-- ==== Sys2Proof/Machine/Dispatch.lean ====
section
/-! DEFINITION. The dispatch of a decoded command to its meaning (40_host_commands.md R60). -/
namespace Sys2Proof.Machine

/-- A host step on a decoded command (40_host_commands.md R60). -/
def exec (i : Instr) (s : State) : Host.Outcome State Fault Refusal :=
  match i with
  | .clr => Sys2Proof.Machine.execClr s
  | .keyb b => Sys2Proof.Machine.execKeyb b s
  | .ctrb b => Sys2Proof.Machine.execCtrb b s
  | .go n => Sys2Proof.Machine.execGo n s
  | .rdstat => Sys2Proof.Machine.execRdstat s
  | .rdcode => Sys2Proof.Machine.execRdcode s

end Sys2Proof.Machine
end

