-- ==== Sys2Proof/Machine/Sha1.lean ====
section
/-! DEFINITION. SHA-1 (41_hmac_sha1.md R82 to R86). Every value here is internal and discarded (10_state.md R20). Log entry 5. -/
namespace Sys2Proof.Machine

/-- A digest: exactly 20 bytes (00_scope.md R7). -/
abbrev Digest := Vector Byte 20

/-- The number of zero bytes in the padding: least such that the padded length is a multiple of 64 (41_hmac_sha1.md R82). -/
def padZeros (len : Nat) : Nat := (119 - len % 64) % 64

/-- `Pad(X)` (41_hmac_sha1.md R82). -/
def pad (x : Bytes) : Bytes :=
  x ++ [0x80#8] ++ List.replicate (padZeros x.length) 0x00#8 ++ be8 (BitVec.ofNat 64 (8 * x.length))

/-- The number `N` of blocks of `Pad(X)` for a message of `len` bytes (41_hmac_sha1.md R82). -/
def blockCount (len : Nat) : Nat := (len + 8) / 64 + 1

/-- The first `n` blocks of 64 bytes of a byte sequence, in order (41_hmac_sha1.md R82). -/
def blocks : Nat → Bytes → List Bytes
  | 0, _ => []
  | n + 1, x => x.take 64 :: blocks n (x.drop 64)

/-- The big-endian 32-bit words of a byte sequence: `W[0]` to `W[15]` of a block (41_hmac_sha1.md R83). -/
def wordsBE : Bytes → List Word32
  | a :: b :: c :: d :: rest => (a ++ b ++ c ++ d) :: wordsBE rest
  | _ => []

/-- `W[t]` from `W[t-3]`, `W[t-8]`, `W[t-14]`, `W[t-16]`, with `t` the number of words so far (41_hmac_sha1.md R83). -/
def nextWord (w : List Word32) : Word32 :=
  rotl 1 (w.getD (w.length - 3) 0#32 ^^^ w.getD (w.length - 8) 0#32 ^^^ w.getD (w.length - 14) 0#32
    ^^^ w.getD (w.length - 16) 0#32)

/-- `n` more schedule words (41_hmac_sha1.md R83). -/
def extendSchedule : Nat → List Word32 → List Word32
  | 0, w => w
  | n + 1, w => extendSchedule n (w ++ [nextWord w])

/-- The eighty schedule words of a block (41_hmac_sha1.md R83). -/
def schedule (p : Bytes) : List Word32 := extendSchedule 64 (wordsBE p)

/-- A chaining value `(H0, H1, H2, H3, H4)`, or the working variables `(a, b, c, d, e)` (41_hmac_sha1.md R85). -/
structure Chain where
  a : Word32
  b : Word32
  c : Word32
  d : Word32
  e : Word32
  deriving DecidableEq, Repr

/-- `f_t(b, c, d)` (41_hmac_sha1.md R84). -/
def roundFn (t : Nat) (b c d : Word32) : Word32 :=
  if t < 20 then (b &&& c) ||| (~~~b &&& d)
  else if t < 40 then b ^^^ c ^^^ d
  else if t < 60 then (b &&& c) ||| (b &&& d) ||| (c &&& d)
  else b ^^^ c ^^^ d

/-- `K_t` (41_hmac_sha1.md R84). -/
def roundConst (t : Nat) : Word32 :=
  if t < 20 then 0x5A827999#32
  else if t < 40 then 0x6ED9EBA1#32
  else if t < 60 then 0x8F1BBCDC#32
  else 0xCA62C1D6#32

/-- Round `t` on the working variables (41_hmac_sha1.md R85). -/
def round (w : List Word32) (v : Chain) (t : Nat) : Chain where
  a := rotl 5 v.a + roundFn t v.b v.c v.d + v.e + roundConst t + w.getD t 0#32
  b := v.a
  c := rotl 30 v.b
  d := v.c
  e := v.d

/-- Word-by-word addition modulo `2^32` (41_hmac_sha1.md R85). -/
def Chain.add (h v : Chain) : Chain := ⟨h.a + v.a, h.b + v.b, h.c + v.c, h.d + v.d, h.e + v.e⟩

/-- `Compress(H, P)` (41_hmac_sha1.md R85). -/
def compress (h : Chain) (p : Bytes) : Chain :=
  h.add ((List.range 80).foldl (round (schedule p)) h)

/-- `IV` (41_hmac_sha1.md R86). -/
def sha1IV : Chain := ⟨0x67452301#32, 0xEFCDAB89#32, 0x98BADCFE#32, 0x10325476#32, 0xC3D2E1F0#32⟩

/-- The final chaining value of the hash of `x` (41_hmac_sha1.md R86). -/
def sha1Chain (x : Bytes) : Chain := (blocks (blockCount x.length) (pad x)).foldl compress sha1IV

/-- The five words of a chaining value, each big-endian (41_hmac_sha1.md R86). -/
def Chain.bytes (h : Chain) : Bytes := be4 h.a ++ be4 h.b ++ be4 h.c ++ be4 h.d ++ be4 h.e

/-- A chaining value as a digest (41_hmac_sha1.md R86). -/
def Chain.digest (h : Chain) : Digest := ⟨h.bytes.toArray, by simp [Chain.bytes, be4]⟩

/-- `SHA1(X)` (41_hmac_sha1.md R86). -/
def sha1 (x : Bytes) : Digest := (sha1Chain x).digest

end Sys2Proof.Machine
end

