-- ==== Sys2Proof/Machine/Hmac.lean ====
section
/-! DEFINITION. The HMAC-SHA1 core (41_hmac_sha1.md R80, R87, R88), taken concretely (R90(a)). Log entry 5. -/
namespace Sys2Proof.Machine

/-- `K'`: a key longer than 64 bytes is hashed (41_hmac_sha1.md R87). -/
def shortKey (k : Bytes) : Bytes := if k.length > Config.blockLen then (sha1 k).toList else k

/-- `K0`: `K'` padded on the right with zero bytes to 64 bytes (41_hmac_sha1.md R87). -/
def keyBlock (k : Bytes) : Bytes :=
  shortKey k ++ List.replicate (Config.blockLen - (shortKey k).length) 0x00#8

/-- A byte sequence with every byte xored with `p`: `ipad` is `0x36`, `opad` is `0x5C` (41_hmac_sha1.md R88). -/
def xorPad (p : Byte) (x : Bytes) : Bytes := x.map (· ^^^ p)

/-- `inner` (41_hmac_sha1.md R88). -/
def hmacInner (k m : Bytes) : Digest := sha1 (xorPad 0x36#8 (keyBlock k) ++ m)

/-- `HMAC_SHA1(K, M)` (41_hmac_sha1.md R88). -/
def hmacSha1 (k m : Bytes) : Digest := sha1 (xorPad 0x5C#8 (keyBlock k) ++ (hmacInner k m).toList)

end Sys2Proof.Machine
end

