-- ==== Sys2Proof/Machine/Reduce.lean ====
section
/-! DEFINITION. The modulo-1M reducer (43_mod_reducer.md R110 to R112), as the mathematical remainder (R114). -/
namespace Sys2Proof.Machine

/-- `MOD1M(v) = v mod 1000000` on naturals, 20 bits wide (43_mod_reducer.md R111, R112). -/
def mod1M (v : BitVec 31) : BitVec 20 := BitVec.ofNat 20 (v.toNat % Config.modulus)

end Sys2Proof.Machine
end

