-- ==== Sys2Proof/Machine/Truncate.lean ====
section
/-! DEFINITION. The dynamic truncation unit (42_truncation.md R100 to R105). -/
namespace Sys2Proof.Machine

/-- `DT_OFFSET(d) = d[19] & 0x0F` (42_truncation.md R101). -/
def dtOffset (d : Digest) : BitVec 4 := (d[19] &&& 0x0F#8).setWidth 4

/-- Byte `o + k` of the window, in a 32-bit container; `o + 3` is at most 18 (42_truncation.md R103). -/
def windowByte (d : Digest) (o : BitVec 4) (k : Fin 4) : Word32 :=
  (d[o.toNat + k.val]'(by have := o.isLt; have := k.isLt; omega)).setWidth 32

/-- `DT_WINDOW(d, o)` (42_truncation.md R102): four bytes packed big-endian, the top bit masked; the value has 31 bits and
bit 31 of the container is 0. -/
def dtWindow (d : Digest) (o : BitVec 4) : BitVec 31 :=
  (((windowByte d o 0 &&& 0x7F#32) <<< 24) ||| (windowByte d o 1 <<< 16) ||| (windowByte d o 2 <<< 8)
    ||| windowByte d o 3).setWidth 31

end Sys2Proof.Machine
end

