-- ==== Sys2Proof/Machine/Engine.lean ====
section
/-! DEFINITION. The engine: the three datapath elements in series, the completion step and the HOTP function
(44_engine.md R120, R121, R123). -/
namespace Sys2Proof.Machine

/-- The code of a key and a message: HMAC-SHA1, truncation, reduction in series (44_engine.md R120, R121). Irreducible, so that
comparing two states does not unfold the hash; the kernel evaluates it all the same. -/
@[irreducible] def codeOf (k m : Bytes) : BitVec 20 :=
  mod1M (dtWindow (hmacSha1 k m) (dtOffset (hmacSha1 k m)))

/-- `HOTP(K, C)` (44_engine.md R123). -/
def hotp (k : Bytes) (c : BitVec 64) : BitVec 20 := codeOf k (be8 c)

/-- `EngineComplete` (44_engine.md R121): the result is written, the buffers are erased, `ERR` is untouched, and the
response port is not written. It has no failing outcome (60_exceptions.md R130). Log entry 6. -/
def State.engineComplete (s : State) : State :=
  s.erase.finish (codeOf (memRead s.key 0 s.key.length) (memRead s.ctr 0 Config.ctrLen))

end Sys2Proof.Machine
end

