-- ==== Sys2Proof/Machine/Port.lean ====
section
/-! DEFINITION. One rising edge of `clk` (60_exceptions.md R135, 70_reset_and_hazards.md R160): reset alone, else the host step,
then a due completion that is still enabled. -/
namespace Sys2Proof.Machine

/-- `HostStep(s, w)` (40_host_commands.md R60): decode from the word alone, then the command's rule. -/
def hostStep (w : CmdWord) (s : State) : Result :=
  match decode w with
  | .command i => exec i s
  | .illegal _ => illegalWord s

/-- The host's part of an edge: a host step when `cmd_valid = 1`; otherwise `cmd` is ignored and the response port returns
to zero (70_reset_and_hazards.md R160). -/
def hostPhase (e : Edge) (s : State) : Result :=
  if e.cmdValid then hostStep e.cmd s else .next s.noResponse

/-- The engine's part of an edge: `EngineComplete` "if it is due and still enabled after the host step" (60_exceptions.md
R135). A computation that was not running before the edge cannot be due at it, since `T_ENGINE` is at least 1 (00_scope.md
R6; log entry 10). -/
def enginePhase (wasBusy due : Bool) (s : State) : State :=
  if wasBusy && due && s.busy then s.engineComplete else s

/-- What an edge does after the host's part. -/
def andThenEngine (wasBusy due : Bool) : Result → Result
  | .next s => .next (enginePhase wasBusy due s)
  | .fault r => .fault r
  | .refused r => .refused r

/-- One rising edge of `clk` (60_exceptions.md R135, 70_reset_and_hazards.md R160). -/
def clockEdge (e : Edge) (s : State) : Result :=
  if e.rst then .next s.resetStep else andThenEngine s.busy e.due (hostPhase e s)

/-- The edge that presents a command word, with no completion due. -/
def Edge.command (w : CmdWord) : Edge := ⟨false, true, w, false⟩

/-- An edge that presents command `i`, the completion due or not. -/
def Edge.presenting (i : Instr) (due : Bool) : Edge := ⟨false, true, encode i, due⟩

/-- An edge at which the host presents nothing and a running computation's completion is due: what every edge is once the
listed ones are spent, so that an enabled completion is eventually taken (44_engine.md R122). Log entry 2. -/
def Edge.quiet : Edge := ⟨false, false, 0#16, true⟩

/-- The edge with the reset input asserted (70_reset_and_hazards.md R150). -/
def Edge.reset : Edge := ⟨true, false, 0#16, false⟩

/-- The next edge. -/
def nextEdge (s : State) : Edge := s.inputs.headD Edge.quiet

/-- The state with the next edge taken off the list of those to come. -/
def State.consumeEdge (s : State) : State := { s with inputs := s.inputs.tail }

/-- The state whose next edge presents the command word `w`. -/
def State.present (w : CmdWord) (s : State) : State := { s with inputs := Edge.command w :: s.inputs }

end Sys2Proof.Machine
end

