-- ==== Sys2Proof/Machine/Step.lean ====
section
/-! DEFINITION. One step of the machine: one rising edge of `clk`, the next of the edges to come (00_scope.md R5). -/
namespace Sys2Proof.Machine

/-- One step: the next edge, taken from the list (log entry 1). -/
def step (s : State) : Host.Outcome State Fault Refusal := clockEdge (nextEdge s) s.consumeEdge

/-- The state whose next step executes the command word `w` (spec/opcode_table.json's bits): the host presents it at the
next edge (log entry 11). -/
def State.withFetchWord (s : State) (nbits w : Nat) : State := s.present (tableWord nbits w)

end Sys2Proof.Machine
end

