-- ==== Sys2Proof/Machine/Instances.lean ====
section
/-! DEFINITION. Several instances of the block: independent copies that share no state (60_exceptions.md R140). -/
namespace Sys2Proof.Machine

/-- Instance `k` of a system takes one step; the others do not move (60_exceptions.md R140). Where there is no instance `k`
nothing happens. Log entry 13. -/
def stepInstance (k : Nat) (sys : List State) : Host.Outcome (List State) Fault Refusal :=
  match sys[k]? with
  | none => .next sys
  | some s =>
    match step s with
    | .next t => .next (sys.set k t)
    | .fault r => .fault r
    | .refused r => .refused r

end Sys2Proof.Machine
end

