-- ==== Sys2Proof/Machine/Pseudo.lean ====
section
/-! DEFINITION. The pseudo-instructions, their expansions, and the host that carries them out, the loop of `POLL` included
(30_encoding.md R54, 70_reset_and_hazards.md R154). They are conveniences of the host; the block knows nothing of them. Log
entry 12. -/
namespace Sys2Proof.Machine

/-- What the agents do, one after the other, where a listing says so. -/
inductive Action where
  | command (i : Instr)
  /-- The host-side loop `POLL`. -/
  | poll
  /-- `@RESET`. -/
  | resetStep
  /-- `@COMPLETE`. -/
  | completeStep
  deriving DecidableEq, Repr

/-- The pseudo-instructions of 30_encoding.md R54. -/
inductive Pseudo where
  | ldkey (bytes : Bytes)
  | ldkeys (text : List Char)
  | ldctr (c : BitVec 64)
  | poll
  | hotp (key : Bytes) (c : BitVec 64)
  deriving DecidableEq, Repr

/-- `LDKEY b0 b1 ...`: one `KEYB` a byte, in index order. -/
def ldkey (bytes : Bytes) : List Instr := bytes.map .keyb

/-- The ASCII bytes of a text, first character first; none where a character is not ASCII. -/
def asciiBytes? (text : List Char) : Option Bytes :=
  if text.all (fun c => decide (c.toNat < 128)) then some (text.map fun c => BitVec.ofNat 8 c.toNat) else none

/-- `LDKEYS "text"`: `LDKEY` of the ASCII bytes of the text. -/
def ldkeys (text : List Char) : Option (List Instr) := (asciiBytes? text).map ldkey

/-- `LDCTR C`: always eight `CTRB` commands, most significant byte first. -/
def ldctr (c : BitVec 64) : List Instr := (be8 c).map .ctrb

/-- The commands of a transaction before its `POLL`: `CLR`, `LDKEY K`, `LDCTR C`, `GO n`. -/
def hotpStart (k : Bytes) (c : BitVec 64) (n : BitVec 12) : List Instr := .clr :: (ldkey k ++ ldctr c ++ [.go n])

/-- `HOTP K, C`: the whole transaction of 70_reset_and_hazards.md R154; none where `|K|` is out of the range of `GO`'s operand,
which is an error and not a truncation (30_encoding.md R53). -/
def hotpTransaction (k : Bytes) (c : BitVec 64) : Option (List Action) :=
  if k.length < 4096 then
    some ((hotpStart k c (BitVec.ofNat 12 k.length)).map .command ++ [.poll, .command .rdcode])
  else none

/-- The expansion of a pseudo-instruction (30_encoding.md R54). -/
def Pseudo.expand : Pseudo → Option (List Action)
  | .ldkey bytes => some ((Sys2Proof.Machine.ldkey bytes).map .command)
  | .ldkeys text => (Sys2Proof.Machine.ldkeys text).map (List.map .command)
  | .ldctr c => some ((Sys2Proof.Machine.ldctr c).map .command)
  | .poll => some [.poll]
  | .hotp k c => hotpTransaction k c

/-! Carrying actions out. `dues` says of the edges of the loops to come whether a completion is due at them; that is the
engine's free duration (log entry 2). -/

/-- What carrying actions out leaves. -/
structure Performed where
  /-- The commands the host issued, in order. -/
  commands : List Instr
  /-- The due bits not used. -/
  dues : List Bool
  /-- The block. -/
  state : State
  /-- False when `dues` was used up before a loop ended. -/
  ended : Bool
  deriving DecidableEq, Repr

/-- The outcome of carrying actions out. -/
abbrev Performance := Host.Outcome Performed Fault Refusal

/-- A performance that follows the commands `issued`. -/
def Performed.after (issued : List Instr) (r : Performed) : Performed := { r with commands := issued ++ r.commands }

/-- One edge, then what is done on the state after it; the edge issues the commands `issued`. -/
def performEdge (issued : List Instr) (e : Edge) (s : State) (andThen : State → Performance) : Performance :=
  match clockEdge e s with
  | .fault r => .fault r
  | .refused r => .refused r
  | .next t =>
    match andThen t with
    | .next r => .next (r.after issued)
    | .fault r => .fault r
    | .refused r => .refused r

/-- The host's test that ends `POLL`: the response of the `RDSTAT` has `BUSY = 0`. -/
def pollEnds (s : State) : Bool := !s.rsp.getLsbD 0

/-- `POLL`: "repeat `RDSTAT` until the response has `BUSY = 0`" (30_encoding.md R54). -/
def poll : List Bool → State → Performance
  | [], s => .next ⟨[], [], s, false⟩
  | due :: dues, s =>
    performEdge [.rdstat] (Edge.presenting .rdstat due) s fun t =>
      if pollEnds t then .next ⟨[], dues, t, true⟩ else poll dues t

/-- One action. -/
def Action.perform (dues : List Bool) : Action → State → Performance
  | .command i, s => performEdge [i] (Edge.presenting i false) s fun t => .next ⟨[], dues, t, true⟩
  | .poll, s => Sys2Proof.Machine.poll dues s
  | .resetStep, s => performEdge [] Edge.reset s fun t => .next ⟨[], dues, t, true⟩
  | .completeStep, s => performEdge [] Edge.quiet s fun t => .next ⟨[], dues, t, true⟩

/-- Actions in order, up to a loop that does not end. -/
def performAll : List Action → List Bool → State → Performance
  | [], dues, s => .next ⟨[], dues, s, true⟩
  | a :: rest, dues, s =>
    match a.perform dues s with
    | .fault r => .fault r
    | .refused r => .refused r
    | .next p =>
      if p.ended then
        match performAll rest p.dues p.state with
        | .next r => .next (r.after p.commands)
        | .fault r => .fault r
        | .refused r => .refused r
      else .next p

end Sys2Proof.Machine
end

