-- ==== Sys2Proof/Machine/Listing.lean ====
section
/-! DEFINITION. The listing syntax: the canonical printed form and the reading of a line, pseudo-instruction lines included
(30_encoding.md R53, R54). The block knows nothing of it. Log entry 12. -/
namespace Sys2Proof.Machine

/-! The canonical printed form (30_encoding.md R53). -/

/-- The mnemonic in upper case. -/
def mnemonicText : Mnemonic → List Char
  | .clr => ['C', 'L', 'R']
  | .keyb => ['K', 'E', 'Y', 'B']
  | .ctrb => ['C', 'T', 'R', 'B']
  | .go => ['G', 'O']
  | .rdstat => ['R', 'D', 'S', 'T', 'A', 'T']
  | .rdcode => ['R', 'D', 'C', 'O', 'D', 'E']

/-- The digit characters, upper case above 9. -/
def digitChars : List Char :=
  ['0', '1', '2', '3', '4', '5', '6', '7', '8', '9', 'A', 'B', 'C', 'D', 'E', 'F']

/-- A digit's character. -/
def digitChar (d : Nat) : Char := digitChars.getD d '0'

/-- Two hexadecimal digits with the `0x` prefix, the form of `b`. -/
def hexByteText (b : Byte) : List Char := ['0', 'x', digitChar (b.toNat / 16), digitChar (b.toNat % 16)]

/-- A number without the zeros that lead it, at least one digit long. -/
def dropLeadingZeros : List Char → List Char
  | [] => []
  | [c] => [c]
  | c :: rest => if c = '0' then dropLeadingZeros rest else c :: rest

/-- Decimal, the form of `n`, which has at most four digits. -/
def decimalText (n : BitVec 12) : List Char :=
  dropLeadingZeros
    [digitChar (n.toNat / 1000), digitChar (n.toNat / 100 % 10), digitChar (n.toNat / 10 % 10), digitChar (n.toNat % 10)]

/-- A command's operand in canonical form, where it has one. -/
def operandText : Instr → List Char
  | .keyb b => ' ' :: hexByteText b
  | .ctrb b => ' ' :: hexByteText b
  | .go n => ' ' :: decimalText n
  | .clr => []
  | .rdstat => []
  | .rdcode => []

/-- The canonical printed form of a command. -/
def printCommand (i : Instr) : List Char := mnemonicText i.mnemonic ++ operandText i

/-! Reading a line. -/

/-- What a line of a listing stands for. -/
inductive Line where
  /-- A line of white space or comment only. -/
  | blank
  | command (i : Instr)
  | pseudo (p : Pseudo)
  /-- `@RESET`, the reset step. -/
  | resetStep
  /-- `@COMPLETE`, the engine's completion step. -/
  | completeStep
  /-- A line with the annotation `(xN)`: the line, `n` times. -/
  | times (n : Nat) (l : Line)
  deriving DecidableEq, Repr

/-- Why a line is not one of the syntax. -/
inductive AssemblyError where
  | unknownMnemonic
  | operandCount
  | notANumber
  /-- "an operand out of range is an assembly error, not a truncation". -/
  | outOfRange
  /-- An operand that should be a text in double quotes, or a name of a key, and is neither. -/
  | notAKey
  /-- A text with a character that is not ASCII. -/
  | notAscii
  /-- `...` without a byte before it or a larger byte after it. -/
  | badElision
  deriving DecidableEq, Repr

/-- The outcome of reading a line. -/
inductive Assembly where
  | line (l : Line)
  | error (e : AssemblyError)
  deriving DecidableEq, Repr

/-- The line up to its comment: `;` outside a quoted text starts a comment that runs to the end. `quoted` says whether the
text before stands inside quotes. -/
def uncomment (quoted : Bool) : List Char → List Char
  | [] => []
  | c :: rest =>
    if c = ';' ∧ quoted = false then [] else c :: uncomment (if c = '"' then !quoted else quoted) rest

/-- Whether a character separates words: a space or a tab. -/
def isSeparator (c : Char) : Bool := c == ' ' || c == '\t'

/-- The word being read, put before the words after it, where it has a character. -/
def closeWord (word : List Char) (rest : List (List Char)) : List (List Char) :=
  if word.isEmpty then rest else word :: rest

/-- The words of a line, `word` being the characters of the word being read. A quoted text is in one word with its quotes,
and a comma outside one is a word. -/
def splitWords (quoted : Bool) (word : List Char) : List Char → List (List Char)
  | [] => closeWord word []
  | c :: rest =>
    if quoted then splitWords (c != '"') (word ++ [c]) rest
    else if isSeparator c then closeWord word (splitWords false [] rest)
    else if c = ',' then closeWord word ([','] :: splitWords false [] rest)
    else splitWords (c == '"') (word ++ [c]) rest

/-- A digit's value in a base of at most 16, letters in either case. -/
def digitValue? (base : Nat) (c : Char) : Option Nat :=
  let v := digitChars.idxOf c.toUpper
  if v < base then some v else none

/-- The value of a sequence of digits in a base. -/
def digitsValue? (base : Nat) (acc : Nat) : List Char → Option Nat
  | [] => some acc
  | c :: rest =>
    match digitValue? base c with
    | some v => digitsValue? base (base * acc + v) rest
    | none => none

/-- An unsigned number: decimal, or hexadecimal with the `0x` prefix. -/
def number? : List Char → Option Nat
  | [] => none
  | '0' :: 'x' :: [] => none
  | '0' :: 'x' :: digits => digitsValue? 16 0 digits
  | digits => digitsValue? 10 0 digits

/-- The text a word in double quotes holds. -/
def text? : List Char → Option (List Char)
  | '"' :: rest =>
    if rest.getLast? = some '"' ∧ rest.dropLast.all (· != '"') then some rest.dropLast else none
  | _ => none

/-- The count of an annotation `(xN)`. -/
def timesCount? : List Char → Option Nat
  | '(' :: 'x' :: rest => if rest.getLast? = some ')' then number? rest.dropLast else none
  | _ => none

/-- The six mnemonics. -/
def allMnemonics : List Mnemonic := [.clr, .keyb, .ctrb, .go, .rdstat, .rdcode]

/-- The command a well-formed source stands for. -/
def assembleSource (s : Source) : Assembly :=
  match s.mnemonic, s.operand with
  | .clr, none => .line (.command .clr)
  | .rdstat, none => .line (.command .rdstat)
  | .rdcode, none => .line (.command .rdcode)
  | .keyb, some v => if s.wellFormed then .line (.command (.keyb (BitVec.ofNat 8 v))) else .error .outOfRange
  | .ctrb, some v => if s.wellFormed then .line (.command (.ctrb (BitVec.ofNat 8 v))) else .error .outOfRange
  | .go, some v => if s.wellFormed then .line (.command (.go (BitVec.ofNat 12 v))) else .error .outOfRange
  | .clr, some _ => .error .operandCount
  | .rdstat, some _ => .error .operandCount
  | .rdcode, some _ => .error .operandCount
  | .keyb, none => .error .operandCount
  | .ctrb, none => .error .operandCount
  | .go, none => .error .operandCount

/-- The operand words after a mnemonic: none, or one number. -/
def assembleOperands (m : Mnemonic) : List (List Char) → Assembly
  | [] => assembleSource ⟨m, none⟩
  | [word] =>
    match number? word with
    | some v => assembleSource ⟨m, some v⟩
    | none => .error .notANumber
  | _ => .error .operandCount

/-! The operands of the pseudo-instructions (30_encoding.md R54). -/

/-- A number below `bound`. -/
def numberBelow (bound : Nat) (word : List Char) : Except AssemblyError Nat :=
  match number? word with
  | some v => if v < bound then .ok v else .error .outOfRange
  | none => .error .notANumber

/-- The bytes strictly between two bytes, counting up. -/
def bytesBetween (a b : Nat) : Bytes := (List.range (b - a - 1)).map fun i => BitVec.ofNat 8 (a + 1 + i)

/-- The bytes an elision `...` between the byte `prev` and the word `next` stands for. -/
def elidedBytes (prev : Option Nat) (next : Option (List Char)) : Except AssemblyError Bytes :=
  match prev, next with
  | some a, some word =>
    match numberBelow 256 word with
    | .ok b => if a < b then .ok (bytesBetween a b) else .error .badElision
    | .error e => .error e
  | _, _ => .error .badElision

/-- The operands of `LDKEY`: bytes, and `...` for the bytes that count up between its neighbours. -/
def readBytes (prev : Option Nat) : List (List Char) → Except AssemblyError Bytes
  | [] => .ok []
  | word :: rest =>
    if word = ['.', '.', '.'] then
      match elidedBytes prev rest.head?, readBytes none rest with
      | .ok elided, .ok bytes => .ok (elided ++ bytes)
      | .error e, _ => .error e
      | .ok _, .error e => .error e
    else
      match numberBelow 256 word with
      | .error e => .error e
      | .ok v =>
        match readBytes (some v) rest with
        | .ok bytes => .ok (BitVec.ofNat 8 v :: bytes)
        | .error e => .error e

/-- The counter operand of `LDCTR` and `HOTP`: `0 <= C < 2^64`. -/
def readCounter (word : List Char) : Except AssemblyError (BitVec 64) :=
  (numberBelow (2 ^ 64) word).map (BitVec.ofNat 64)

/-- The key operand of `HOTP`: a text in double quotes, or a name that `keys` gives bytes to. -/
def readKey (keys : List (List Char × Bytes)) (word : List Char) : Except AssemblyError Bytes :=
  match text? word with
  | some text =>
    match asciiBytes? text with
    | some bytes => .ok bytes
    | none => .error .notAscii
  | none =>
    match keys.lookup word with
    | some bytes => .ok bytes
    | none => .error .notAKey

/-- The line of a pseudo-instruction whose operands were read; its expansion's operands are in range too. -/
def assemblePseudo : Except AssemblyError Pseudo → Assembly
  | .error e => .error e
  | .ok p => if p.expand.isSome then .line (.pseudo p) else .error .outOfRange

/-- `LDKEYS "text"`. -/
def readLdkeys : List (List Char) → Except AssemblyError Pseudo
  | [word] =>
    match text? word with
    | none => .error .notAKey
    | some text => if (asciiBytes? text).isSome then .ok (.ldkeys text) else .error .notAscii
  | _ => .error .operandCount

/-- `LDCTR C`. -/
def readLdctr : List (List Char) → Except AssemblyError Pseudo
  | [word] => (readCounter word).map .ldctr
  | _ => .error .operandCount

/-- `POLL`. -/
def readPoll : List (List Char) → Except AssemblyError Pseudo
  | [] => .ok .poll
  | _ => .error .operandCount

/-- `HOTP K, C`. -/
def readHotp (keys : List (List Char × Bytes)) : List (List Char) → Except AssemblyError Pseudo
  | [key, [','], counter] =>
    match readKey keys key, readCounter counter with
    | .ok k, .ok c => .ok (.hotp k c)
    | .error e, _ => .error e
    | .ok _, .error e => .error e
  | _ => .error .operandCount

/-- The text of the two lines that are not commands. -/
def resetText : List Char := ['@', 'R', 'E', 'S', 'E', 'T']

/-- The text of the two lines that are not commands. -/
def completeText : List Char := ['@', 'C', 'O', 'M', 'P', 'L', 'E', 'T', 'E']

/-- The words of a line without an annotation. -/
def assembleWords (keys : List (List Char × Bytes)) : List (List Char) → Assembly
  | [] => .line .blank
  | word :: operands =>
    if word = resetText then if operands.isEmpty then .line .resetStep else .error .operandCount
    else if word = completeText then if operands.isEmpty then .line .completeStep else .error .operandCount
    else if word = ['L', 'D', 'K', 'E', 'Y'] then assemblePseudo ((readBytes none operands).map .ldkey)
    else if word = ['L', 'D', 'K', 'E', 'Y', 'S'] then assemblePseudo (readLdkeys operands)
    else if word = ['L', 'D', 'C', 'T', 'R'] then assemblePseudo (readLdctr operands)
    else if word = ['P', 'O', 'L', 'L'] then assemblePseudo (readPoll operands)
    else if word = ['H', 'O', 'T', 'P'] then assemblePseudo (readHotp keys operands)
    else
      match allMnemonics.find? (fun m => mnemonicText m == word) with
      | some m => assembleOperands m operands
      | none => .error .unknownMnemonic

/-- A line that was read, `n` times. -/
def Assembly.repeated (n : Nat) : Assembly → Assembly
  | .line .blank => .error .unknownMnemonic
  | .line l => .line (.times n l)
  | .error e => .error e

/-- One line of a listing in which `keys` names keys (30_encoding.md R53, R54). -/
def readLine (keys : List (List Char × Bytes)) (cs : List Char) : Assembly :=
  let words := splitWords false [] (uncomment false cs)
  match words.getLast?.bind timesCount? with
  | some n => (assembleWords keys words.dropLast).repeated n
  | none => assembleWords keys words

/-- One line of a listing that names no keys (30_encoding.md R53). -/
def assembleLine (cs : List Char) : Assembly := readLine [] cs

/-- What a line has the agents do; none where a pseudo-instruction has no expansion. -/
def Line.actions : Line → Option (List Action)
  | .blank => some []
  | .command i => some [.command i]
  | .pseudo p => p.expand
  | .resetStep => some [.resetStep]
  | .completeStep => some [.completeStep]
  | .times n l => l.actions.map fun as => (List.replicate n as).flatten

end Sys2Proof.Machine
end

