-- ==== Sys2Proof/Safety.lean ====
section
/-! DEFINITION. What a safe run is, in the terms the statements use: the invariant of 10_state.md R21, the atomic steps of
00_scope.md R4, the parts of a transaction (44_engine.md R123) and what an observer may learn (R124). -/
namespace Sys2Proof.Machine

/-- The invariants of 10_state.md R21, I1 to I5 (their part about one state), and the form of the idle response port
(00_scope.md R5: "0 when `rsp_valid = 0`"). -/
structure StateInv (s : State) : Prop where
  /-- I1 for `KEY`. -/
  key_fits : s.key.length ≤ Config.keyMax
  /-- I1 for `CTR`. -/
  ctr_fits : s.ctr.length ≤ 8
  /-- I2. -/
  not_both : ¬ (s.busy = true ∧ s.done = true)
  /-- I3. -/
  no_code : s.done = false → s.code = 0#20
  /-- I4. -/
  code_range : s.code.toNat ≤ 999999
  /-- I5, its first half. -/
  busy_ctr : s.busy = true → s.ctr.length = 8
  /-- The response port is zero when no response is on it. -/
  idle_port : s.rspValid = false → s.rsp = 0#32

/-- The three kinds of atomic step, each taken by one agent (00_scope.md R4). -/
inductive AtomicStep : State → State → Prop where
  /-- The host presents one command word. -/
  | host (s t : State) (w : CmdWord) : hostStep w s = .next t → AtomicStep s t
  /-- The engine completes, enabled exactly when `BUSY = 1` (44_engine.md R120). -/
  | engine (s : State) : s.busy = true → AtomicStep s s.engineComplete
  /-- Reset, at any time. -/
  | reset (s : State) : AtomicStep s s.resetStep

/-- A sequence of atomic steps of any agents, in any order the enabling allows (20_memory.md R41). -/
inductive AtomicRun : State → State → Prop where
  | done (s : State) : AtomicRun s s
  | step (s t u : State) : AtomicStep s t → AtomicRun t u → AtomicRun s u

/-- `k` steps of the machine, stopping at the first fault or refusal: `Host.Core.run` of `Sys2Proof.core`
(Laws/Run.lean, `run_eq_core`). -/
def run : Nat → State → Result
  | 0, s => .next s
  | k + 1, s =>
    match step s with
    | .next t => run k t
    | .fault r => .fault r
    | .refused r => .refused r

/-- The command an edge presents, where it presents a word (70_reset_and_hazards.md R160). -/
def Edge.decoded? (e : Edge) : Option Decoded := if e.cmdValid then some (decode e.cmd) else none

/-- An edge at which a command is executed: a reset at the same edge wins (60_exceptions.md R135). -/
def Edge.executes (e : Edge) (i : Instr) : Prop := e.rst = false ∧ e.decoded? = some (.command i)

/-- Whether an edge is a reset or executes `CLR`, the two ways to lose everything. -/
def Edge.clears (e : Edge) : Bool :=
  e.rst || match e.decoded? with
    | some (.command .clr) => true
    | _ => false

/-- Whether an edge executes some `GO`. -/
def Edge.starts (e : Edge) : Bool :=
  !e.rst && match e.decoded? with
    | some (.command (.go _)) => true
    | _ => false

/-- Whether an edge may stand in the loading part of a transaction: "no other word except `RDSTAT` and `RDCODE`"
(44_engine.md R123). -/
def Edge.loads (e : Edge) : Bool :=
  !e.rst && match e.decoded? with
    | none => true
    | some (.command (.keyb _)) => true
    | some (.command (.ctrb _)) => true
    | some (.command .rdstat) => true
    | some (.command .rdcode) => true
    | _ => false

/-- The byte a `KEYB` edge loads. -/
def Edge.keyByte? (e : Edge) : Option Byte :=
  match e.decoded? with
  | some (.command (.keyb b)) => some b
  | _ => none

/-- The byte a `CTRB` edge loads. -/
def Edge.ctrByte? (e : Edge) : Option Byte :=
  match e.decoded? with
  | some (.command (.ctrb b)) => some b
  | _ => none

/-- The key bytes a sequence of edges loads, in order. -/
def keyBytes (es : List Edge) : Bytes := es.filterMap Edge.keyByte?

/-- The counter bytes a sequence of edges loads, in order. -/
def ctrBytes (es : List Edge) : Bytes := es.filterMap Edge.ctrByte?

/-- States that differ only in what the host may not learn before a code is read: the content of the two buffers, and the
code and the response that may show it (44_engine.md R124(c)). -/
structure SameOutside (s t : State) : Prop where
  key_length : s.key.length = t.key.length
  ctr_length : s.ctr.length = t.ctr.length
  busy : s.busy = t.busy
  done : s.done = t.done
  err : s.err = t.err
  rspValid : s.rspValid = t.rspValid
  inputs : s.inputs = t.inputs

end Sys2Proof.Machine
end

