-- ==== Sys2Proof/Certificates/Slice0/Obligations.lean ====
section
/-! DEFINITION. The statements for the provers, one definition each. Where a clause says "in every state", states that no run
reaches are meant too; where one rests on the invariant of 10_state.md R21, that is a premise. -/

open Sys2Proof Sys2Proof.Machine

/-! ## Encoding -/

/-- 30_encoding.md R50: the decode procedure field by field, the encoder's words, and both round trips: decoding an encoded
command gives it back, and encoding a decoded word gives the word back. -/
def Obligations.DecodeAndEncodeAreInverse : Prop :=
  (∀ i : Instr, i.wellFormed = true → decode (encode i) = .command i) ∧
  (∀ (w : CmdWord) (i : Instr), decode w = .command i → encode i = w) ∧
  (∀ w : CmdWord, decode w = .command .clr ↔ w = 0x1000#16) ∧
  (∀ (w : CmdWord) (b : Byte), decode w = .command (.keyb b) ↔ w.extractLsb' 8 8 = 0x20#8 ∧ b = w.extractLsb' 0 8) ∧
  (∀ (w : CmdWord) (b : Byte), decode w = .command (.ctrb b) ↔ w.extractLsb' 8 8 = 0x30#8 ∧ b = w.extractLsb' 0 8) ∧
  (∀ (w : CmdWord) (n : BitVec 12), decode w = .command (.go n) ↔ w.extractLsb' 12 4 = 0x4#4 ∧ n = w.extractLsb' 0 12) ∧
  (∀ w : CmdWord, decode w = .command .rdstat ↔ w = 0x5000#16) ∧
  (∀ w : CmdWord, decode w = .command .rdcode ↔ w = 0x6000#16) ∧
  encode .clr = 0x1000#16 ∧ encode .rdstat = 0x5000#16 ∧ encode .rdcode = 0x6000#16 ∧
  (∀ b : Byte, encode (.keyb b) = 0x2000#16 ||| b.setWidth 16 ∧ encode (.ctrb b) = 0x3000#16 ||| b.setWidth 16) ∧
  (∀ n : BitVec 12, encode (.go n) = 0x4000#16 ||| n.setWidth 16)

/-- 30_encoding.md R48: a word selects a row by mask and match exactly when it decodes to a command of that row, and at most
one row matches. -/
def Obligations.OpcodeMapSelectsWhatDecodes : Prop :=
  ∀ w : CmdWord,
    (∀ m : Mnemonic, selects m w = true ↔ ∃ i : Instr, i.mnemonic = m ∧ decode w = .command i) ∧
    (∀ m m' : Mnemonic, selects m w = true → selects m' w = true → m = m')

/-- 30_encoding.md R49: the illegal words are exactly those it lists. -/
def Obligations.IllegalWordsAreExactlyTheListed : Prop :=
  ∀ w : CmdWord,
    (∃ why, decode w = .illegal why) ↔
      opField w = 0x0#4 ∨ 0x7#4 ≤ opField w ∨
      ((opField w = 0x1#4 ∨ opField w = 0x5#4 ∨ opField w = 0x6#4) ∧ w.extractLsb' 0 12 ≠ 0#12) ∨
      ((opField w = 0x2#4 ∨ opField w = 0x3#4) ∧ w.extractLsb' 8 4 ≠ 0#4)

/-- Words written out from 30_encoding.md R48, R49 and the listings of 95_test_vectors.md section 3. -/
def Obligations.SampleWordsDecodeRight : Prop :=
  decode 0x1000#16 = .command .clr ∧ decode 0x2031#16 = .command (.keyb 0x31#8) ∧
  decode 0x303B#16 = .command (.ctrb 0x3B#8) ∧ decode 0x4014#16 = .command (.go 20#12) ∧
  decode 0x5000#16 = .command .rdstat ∧ decode 0x6000#16 = .command .rdcode ∧
  decode 0x0000#16 = .illegal .unassignedOpcode ∧ decode 0xFFFF#16 = .illegal .unassignedOpcode ∧
  decode 0x1001#16 = .illegal .mustBeZero ∧ decode 0x2100#16 = .illegal .mustBeZero

/-- 30_encoding.md R53: the canonical printed form of a command reads back as that command, with any comment after it. That
white space may stand before a comment is the model's reading (log entry 12). -/
def Obligations.PrintedCommandReadsBack : Prop :=
  ∀ i : Instr,
    assembleLine (printCommand i) = .line (.command i) ∧
    ∀ comment : List Char, assembleLine (printCommand i ++ ' ' :: ';' :: comment) = .line (.command i)

/-- 20_memory.md R33, 10_state.md R13, 30_encoding.md R54: the eight bytes of `LDCTR C`, most significant first, are the
counter `C` again, and every eight bytes are some counter's. -/
def Obligations.CounterBytesAreBigEndian : Prop :=
  (∀ c : BitVec 64, ldctr c =
    [.ctrb (c.extractLsb' 56 8), .ctrb (c.extractLsb' 48 8), .ctrb (c.extractLsb' 40 8), .ctrb (c.extractLsb' 32 8),
     .ctrb (c.extractLsb' 24 8), .ctrb (c.extractLsb' 16 8), .ctrb (c.extractLsb' 8 8), .ctrb (c.extractLsb' 0 8)]) ∧
  (∀ c : BitVec 64, fromBE (be8 c) = c.toNat) ∧
  (∀ x : Bytes, x.length = 8 → be8 (BitVec.ofNat 64 (fromBE x)) = x)

/-- 30_encoding.md R54, R53: the expansions of the five pseudo-instructions; `HOTP` of a key whose length is out of the range of
`GO`'s operand has none. `POLL` is the host's loop, of which `PollRepeatsUntilIdle` speaks. -/
def Obligations.PseudoInstructionsExpandAsStated : Prop :=
  (∀ bytes : Bytes, (Pseudo.ldkey bytes).expand = some (bytes.map fun b => .command (.keyb b))) ∧
  (∀ text : List Char, (∀ ch ∈ text, ch.toNat < 128) →
    (Pseudo.ldkeys text).expand = some (text.map fun ch => .command (.keyb (BitVec.ofNat 8 ch.toNat)))) ∧
  (∀ c : BitVec 64, (Pseudo.ldctr c).expand = some
    [.command (.ctrb (c.extractLsb' 56 8)), .command (.ctrb (c.extractLsb' 48 8)), .command (.ctrb (c.extractLsb' 40 8)),
     .command (.ctrb (c.extractLsb' 32 8)), .command (.ctrb (c.extractLsb' 24 8)), .command (.ctrb (c.extractLsb' 16 8)),
     .command (.ctrb (c.extractLsb' 8 8)), .command (.ctrb (c.extractLsb' 0 8))]) ∧
  Pseudo.poll.expand = some [.poll] ∧
  (∀ (k : Bytes) (c : BitVec 64), k.length ≤ 4095 → ∃ n : BitVec 12, n.toNat = k.length ∧
    (Pseudo.hotp k c).expand = some ([.command .clr] ++ (k.map fun b => .command (.keyb b)) ++
      ((be8 c).map fun b => .command (.ctrb b)) ++ [.command (.go n), .poll, .command .rdcode])) ∧
  (∀ (k : Bytes) (c : BitVec 64), 4095 < k.length → (Pseudo.hotp k c).expand = none)

/-- 30_encoding.md R54, 44_engine.md R122: `POLL` issues only `RDSTAT`, at successive edges; it goes on exactly as long as the
response has `BUSY = 1`; and it ends if a running computation completes before the last edge it may use. That `dues` says at
which edges a completion is due, and ends the loop when it is used up, is the model's (log entries 2, 12). -/
def Obligations.PollRepeatsUntilIdle : Prop :=
  ∀ (dues : List Bool) (s : State), ∃ r : Performed, poll dues s = .next r ∧
    r.commands = List.replicate r.commands.length .rdstat ∧ r.commands.length ≤ dues.length ∧
    r.dues = dues.drop r.commands.length ∧
    run r.commands.length
      { s with inputs := (dues.take r.commands.length).map (Edge.presenting .rdstat) ++ s.inputs } = .next r.state ∧
    (r.ended = true → 1 ≤ r.commands.length ∧ r.state.rspValid = true ∧ r.state.rsp.getLsbD 0 = false) ∧
    (r.ended = false → r.commands.length = dues.length) ∧
    (∀ j : Nat, 1 ≤ j → j < r.commands.length ∨ (j = r.commands.length ∧ r.ended = false) →
      ∃ q : Performed, poll (dues.take j) s = .next q ∧ q.ended = false ∧ q.state.rspValid = true ∧
        q.state.rsp.getLsbD 0 = true) ∧
    ((s.busy = false → dues ≠ []) → (s.busy = true → ∃ i : Nat, dues[i]? = some true ∧ i + 1 < dues.length) →
      r.ended = true)

/-- 30_encoding.md R54, 70_reset_and_hazards.md R154, 44_engine.md R123: the expansion of `HOTP K, C`, carried out from any state,
ends with the HOTP code in the response of its `RDCODE`, and with the state R154 names, if the computation completes before the
last edge the loop may use. That `dues` says when it completes is the model's (log entries 2, 12). -/
def Obligations.HotpPseudoInstructionReturnsTheCode : Prop :=
  ∀ (k : Bytes) (c : BitVec 64) (dues : List Bool) (s : State), k.length ≤ Config.keyMax →
    (∃ i : Nat, dues[i]? = some true ∧ i + 1 < dues.length) →
    ∃ (as : List Action) (r : Performed) (m : Nat), (Pseudo.hotp k c).expand = some as ∧
      performAll as dues s = .next r ∧ r.ended = true ∧ 1 ≤ m ∧
      r.commands = .clr :: (k.map .keyb ++ (be8 c).map .ctrb ++ [.go (BitVec.ofNat 12 k.length)] ++
        List.replicate m .rdstat ++ [.rdcode]) ∧
      r.state.rspValid = true ∧ r.state.rsp = 0x80000000#32 ||| (hotp k c).setWidth 32 ∧
      r.state.arch = ([], [], hotp k c, false, true, 0#5)

/-! ## Reset and invariants -/

/-- 10_state.md R22, 40_host_commands.md R61(e): the reset state, its two views, and `CLR` in any state gives it. The model's
own field `inputs` is not named. -/
def Obligations.ResetStateIsAllZero : Prop :=
  State.reset.key = [] ∧ State.reset.ctr = [] ∧ State.reset.code = 0#20 ∧ State.reset.busy = false ∧
  State.reset.done = false ∧ State.reset.err = 0#5 ∧ State.reset.rspValid = false ∧ State.reset.rsp = 0#32 ∧
  State.reset.status = 0#32 ∧ State.reset.codeword = 0#32 ∧
  ∀ s : State, exec .clr s = .next { State.reset with inputs := s.inputs }

/-- 70_reset_and_hazards.md R150, 60_exceptions.md R135: an edge with `rst = 1` leaves the reset state, whatever the state,
whatever is on the command port and whatever is due. -/
def Obligations.ResetEdgeWinsOverEverything : Prop :=
  ∀ (s : State) (e : Edge) (rest : List Edge), s.inputs = e :: rest → e.rst = true →
    step s = .next { State.reset with inputs := rest }

/-- The invariants of 10_state.md R21 hold at reset. -/
def Obligations.InvariantAtReset : Prop := StateInv State.reset

/-- The invariants of 10_state.md R21 (I1 to I4 and the first half of I5) and the form of the idle response port are kept by
every step. -/
def Obligations.StepKeepsInvariant : Prop :=
  ∀ s t : State, StateInv s → step s = .next t → StateInv t

/-- 10_state.md R21: the invariants I1 to I5 hold "after any sequence of `Reset`, host and engine steps starting from a
`Reset`"; I5's second half, that a `GO` is accepted with no flag set; and I6. -/
def Obligations.InvariantAfterAnyAtomicRun : Prop :=
  ∀ s t : State, AtomicRun s.resetStep t →
    StateInv t ∧
    (∀ (n : BitVec 12) (u : State), exec (.go n) t = .next u → t.busy = false → u.busy = true → t.err = 0#5) ∧
    (t.busy = true → t.engineComplete.key = [] ∧ t.engineComplete.ctr = [])

/-! ## The commands -/

/-- 40_host_commands.md R61: the encoding; `CLR` in every state, busy or not; (a) from a block that is neither busy nor done no
word starts a computation but a `GO`, and no host step makes a code appear; (c); (d) no other word and no completion clears a
flag; (e). -/
def Obligations.ClrClearsEverything : Prop :=
  decode 0x1000#16 = .command .clr ∧
  (∀ s : State, exec .clr s = .next
    { s with key := [], ctr := [], code := 0#20, busy := false, done := false, err := 0#5, rspValid := false, rsp := 0#32 }) ∧
  (∀ (w : CmdWord) (s t : State), s.busy = false → s.done = false → hostStep w s = .next t →
    t.done = false ∧ (t.busy = true → ∃ n, decode w = .command (.go n))) ∧
  exec .clr State.reset = .next State.reset ∧
  (∀ (w : CmdWord) (s t : State) (f : ErrFlag), hostStep w s = .next t → decode w ≠ .command .clr →
    s.flag f = true → t.flag f = true) ∧
  (∀ s : State, s.engineComplete.err = s.err) ∧
  (∀ s : State, exec .clr s = .next s.resetStep)

/-- 40_host_commands.md R62: the encoding; `KEYB b` while busy, on a full buffer, and otherwise. -/
def Obligations.KeybAppendsOrRaises : Prop :=
  ∀ (b : Byte) (s : State),
    decode (0x2000#16 ||| b.setWidth 16) = .command (.keyb b) ∧
    (s.busy = true → exec (.keyb b) s = .next { s with err := s.err ||| 0x02#5, rspValid := false, rsp := 0#32 }) ∧
    (s.busy = false → s.key.length = Config.keyMax →
      exec (.keyb b) s = .next { s with err := s.err ||| 0x04#5, rspValid := false, rsp := 0#32 }) ∧
    (s.busy = false → s.key.length ≠ Config.keyMax →
      exec (.keyb b) s = .next { s with key := s.key ++ [b], rspValid := false, rsp := 0#32 })

/-- 40_host_commands.md R63: the encoding; `CTRB b` while busy, on a full buffer, and otherwise. -/
def Obligations.CtrbAppendsOrRaises : Prop :=
  ∀ (b : Byte) (s : State),
    decode (0x3000#16 ||| b.setWidth 16) = .command (.ctrb b) ∧
    (s.busy = true → exec (.ctrb b) s = .next { s with err := s.err ||| 0x02#5, rspValid := false, rsp := 0#32 }) ∧
    (s.busy = false → s.ctr.length = 8 →
      exec (.ctrb b) s = .next { s with err := s.err ||| 0x08#5, rspValid := false, rsp := 0#32 }) ∧
    (s.busy = false → s.ctr.length ≠ 8 →
      exec (.ctrb b) s = .next { s with ctr := s.ctr ++ [b], rspValid := false, rsp := 0#32 })

/-- 40_host_commands.md R64: the encoding; `GO n` while busy, refused for sequence reasons, and accepted. -/
def Obligations.GoStartsOrRaises : Prop :=
  ∀ (n : BitVec 12) (s : State),
    decode (0x4000#16 ||| n.setWidth 16) = .command (.go n) ∧
    (s.busy = true → exec (.go n) s = .next { s with err := s.err ||| 0x02#5, rspValid := false, rsp := 0#32 }) ∧
    (s.busy = false → (s.err ≠ 0#5 ∨ s.ctr.length ≠ 8 ∨ s.key.length ≠ n.toNat) →
      exec (.go n) s = .next
        { s with err := s.err ||| 0x10#5, done := false, code := 0#20, rspValid := false, rsp := 0#32 }) ∧
    (s.busy = false → s.err = 0#5 → s.ctr.length = 8 → s.key.length = n.toNat →
      exec (.go n) s = .next { s with busy := true, done := false, code := 0#20, rspValid := false, rsp := 0#32 })

/-- 40_host_commands.md R65: the encoding; `RDSTAT` answers the `STATUS` view, changes nothing else in any state, and may be
repeated; in a state that meets the invariant of 10_state.md R21 at most one of the word's `BUSY` and `DONE` is 1. -/
def Obligations.RdstatRespondsStatus : Prop :=
  decode 0x5000#16 = .command .rdstat ∧
  ∀ s : State, ∃ t : State, exec .rdstat s = .next t ∧ t = { s with rspValid := true, rsp := s.status } ∧
    exec .rdstat t = .next t ∧
    (StateInv s → ¬ (t.rsp.extractLsb' 0 1 = 1#1 ∧ t.rsp.extractLsb' 1 1 = 1#1))

/-- 40_host_commands.md R66: the encoding; `RDCODE` answers the `CODEWORD` view, changes nothing else in any state, and may be
repeated; what the word is with and without a result in a state that meets the invariant of 10_state.md R21. -/
def Obligations.RdcodeRespondsCodeword : Prop :=
  decode 0x6000#16 = .command .rdcode ∧
  ∀ s : State, ∃ t : State, exec .rdcode s = .next t ∧ t = { s with rspValid := true, rsp := s.codeword } ∧
    exec .rdcode t = .next t ∧
    (StateInv s →
      (s.done = false → t.rsp = 0x00000000#32) ∧ (s.busy = true → t.rsp = 0x00000000#32) ∧
      (s.done = true → t.rsp = 0x80000000#32 ||| s.code.setWidth 32 ∧ t.rsp ≤ 0x800F423F#32))

/-- 40_host_commands.md R67: an illegal word sets `E_ILL` and does nothing else, in every state, busy or not. -/
def Obligations.IllegalWordSetsOnlyIll : Prop :=
  ∀ (w : CmdWord) (why : IllegalWord) (s : State), decode w = .illegal why →
    hostStep w s = .next { s with err := s.err ||| 0x01#5, rspValid := false, rsp := 0#32 }

/-- A step at which the host presents a word that decodes to a command is `exec` of that command on the state without this
edge, and then the engine's part of the edge: a completion if a computation was running before the edge, is due at it and is
still running (60_exceptions.md R135). That it must have been running before the edge is the model's (log entry 10), and so is
the list the edge comes from (log entry 1). -/
def Obligations.StepRunsTheDecodedCommand : Prop :=
  ∀ (s t : State) (e : Edge) (rest : List Edge) (i : Instr), s.inputs = e :: rest → e.rst = false → e.cmdValid = true →
    decode e.cmd = .command i → i.wellFormed = true → exec i { s with inputs := rest } = .next t →
    step s = .next (if s.busy = true ∧ e.due = true ∧ t.busy = true then t.engineComplete else t)

/-- 40_host_commands.md R68: the write matrix as frames. What each command leaves unchanged when it gives a next state:
registers, flags, every byte of both buffers but the one appended, the edges to come, and the response port. -/
def Obligations.CommandsWriteOnlyTheirOwn : Prop :=
  ∀ (i : Instr) (s t : State), exec i s = .next t →
    t.inputs = s.inputs ∧
    (i ≠ .clr → (∀ b, i ≠ .keyb b) → t.key = s.key) ∧
    (i ≠ .clr → (∀ b, i ≠ .ctrb b) → t.ctr = s.ctr) ∧
    (∀ b, i = .keyb b → ∀ a, a ≠ s.key.length → memReadByte t.key a = memReadByte s.key a) ∧
    (∀ b, i = .ctrb b → ∀ a, a ≠ s.ctr.length → memReadByte t.ctr a = memReadByte s.ctr a) ∧
    (i ≠ .clr → (∀ n, i ≠ .go n) → t.code = s.code ∧ t.busy = s.busy ∧ t.done = s.done) ∧
    (∀ n, i = .go n → s.busy = true → t.code = s.code ∧ t.busy = s.busy ∧ t.done = s.done) ∧
    (∀ b, i = .keyb b → ∀ f, f ≠ .busy → f ≠ .keyOvf → t.flag f = s.flag f) ∧
    (∀ b, i = .ctrb b → ∀ f, f ≠ .busy → f ≠ .ctrOvf → t.flag f = s.flag f) ∧
    (∀ n, i = .go n → ∀ f, f ≠ .busy → f ≠ .seq → t.flag f = s.flag f) ∧
    (i = .rdstat ∨ i = .rdcode → t.err = s.err) ∧
    (i ≠ .rdstat → i ≠ .rdcode → t.rspValid = false ∧ t.rsp = 0#32)

/-! ## The error flags -/

/-- 60_exceptions.md R130, R134: after any word but `CLR`, each of the five flags is set exactly if it was set before or the
word and the state meet that flag's condition. -/
def Obligations.FlagsAreRaisedExactlyOnTheirConditions : Prop :=
  ∀ (w : CmdWord) (s t : State), hostStep w s = .next t → decode w ≠ .command .clr →
    (t.flag .ill = true ↔ s.flag .ill = true ∨ ∃ why, decode w = .illegal why) ∧
    (t.flag .busy = true ↔ s.flag .busy = true ∨ (s.busy = true ∧
      ((∃ b, decode w = .command (.keyb b)) ∨ (∃ b, decode w = .command (.ctrb b)) ∨ ∃ n, decode w = .command (.go n)))) ∧
    (t.flag .keyOvf = true ↔ s.flag .keyOvf = true ∨
      (s.busy = false ∧ s.key.length = Config.keyMax ∧ ∃ b, decode w = .command (.keyb b))) ∧
    (t.flag .ctrOvf = true ↔ s.flag .ctrOvf = true ∨
      (s.busy = false ∧ s.ctr.length = 8 ∧ ∃ b, decode w = .command (.ctrb b))) ∧
    (t.flag .seq = true ↔ s.flag .seq = true ∨
      (s.busy = false ∧ ∃ n, decode w = .command (.go n) ∧ (s.err ≠ 0#5 ∨ s.ctr.length ≠ 8 ∨ s.key.length ≠ n.toNat)))

/-- 60_exceptions.md R134: "Within one command at most one flag is raised, chosen by this fixed order of checks": the word,
then `BUSY`, then the command's own condition. -/
def Obligations.AtMostOneFlagPerCommand : Prop :=
  ∀ (w : CmdWord) (s t : State), hostStep w s = .next t →
    (∀ f g : ErrFlag, s.flag f = false → t.flag f = true → s.flag g = false → t.flag g = true → f = g) ∧
    (∀ why, decode w = .illegal why → t.err = s.err ||| 0x01#5) ∧
    (∀ i, decode w = .command i → ((∃ b, i = .keyb b) ∨ (∃ b, i = .ctrb b) ∨ ∃ n, i = .go n) → s.busy = true →
      t.err = s.err ||| 0x02#5) ∧
    (∀ b, decode w = .command (.keyb b) → s.busy = false →
      t.err = if s.key.length = Config.keyMax then s.err ||| 0x04#5 else s.err) ∧
    (∀ b, decode w = .command (.ctrb b) → s.busy = false → t.err = if s.ctr.length = 8 then s.err ||| 0x08#5 else s.err) ∧
    (∀ n, decode w = .command (.go n) → s.busy = false →
      t.err = if s.err ≠ 0#5 ∨ s.ctr.length ≠ 8 ∨ s.key.length ≠ n.toNat then s.err ||| 0x10#5 else s.err)

/-- 10_state.md R18, 60_exceptions.md R132: a step clears no flag unless its edge is a reset or executes `CLR`, and those clear
all five. -/
def Obligations.FlagsAreStickyUntilCleared : Prop :=
  ∀ s t : State, step s = .next t →
    ((nextEdge s).clears = false → ∀ f, s.flag f = true → t.flag f = true) ∧
    ((nextEdge s).clears = true → t.err = 0#5)

/-- 60_exceptions.md R131, R132, 40_host_commands.md R62(c): from an idle state with a flag set, no computation starts as long
as no edge is a reset or executes `CLR`, whatever else the host does. -/
def Obligations.AnErrorBlocksEveryStartUntilCleared : Prop :=
  ∀ (k : Nat) (s t : State), s.err ≠ 0#5 → s.busy = false → (∀ e ∈ s.inputs, e.clears = false) → run k s = .next t →
    t.err ≠ 0#5 ∧ t.busy = false

/-! ## Whole-machine rules -/

/-- 40_host_commands.md R60, 60_exceptions.md R130: every word in every state has an outcome that is a next state, and so has
every clock edge and every run. -/
def Obligations.NothingEverStops : Prop :=
  (∀ (w : CmdWord) (s : State), ∃ t, hostStep w s = .next t) ∧ (∀ s : State, ∃ t, step s = .next t) ∧
  ∀ (k : Nat) (s : State), ∃ t, run k s = .next t

/-- 10_state.md R17, 44_engine.md R121, 60_exceptions.md R135: `DONE` is set only by a completion of a block that was busy
before the edge, with the code of the buffers, which it empties; while it stays set and the block is idle the code stays; it is
cleared only by a reset, `CLR` or a `GO` issued to an idle block. That an idle block's `GO` does not complete at its own edge,
on which the first two clauses rest, is the model's (log entry 10), and so is the list the edge comes from (log entry 1). -/
def Obligations.DoneChangesOnlyAsStated : Prop :=
  ∀ s t : State, step s = .next t →
    (s.done = false → t.done = true → s.busy = true ∧ (nextEdge s).clears = false ∧ (nextEdge s).due = true ∧
      t.code = codeOf s.key (memRead s.ctr 0 8) ∧ t.key = [] ∧ t.ctr = []) ∧
    (s.done = true → t.done = true → s.busy = false → t.code = s.code) ∧
    (s.done = true → t.done = false → (nextEdge s).clears = true ∨ ((nextEdge s).starts = true ∧ s.busy = false))

/-- 10_state.md R16, R21 I5: `BUSY` is set only by an accepted `GO`, with no flag set and both lengths right; it is cleared
only by a completion, `CLR` or a reset; while it stays set nothing the engine will read or the host could read as a code
changes. The first clause rests on log entry 10: a `GO` does not complete at its own edge. -/
def Obligations.BusyChangesOnlyAsStated : Prop :=
  ∀ s t : State, step s = .next t →
    (s.busy = false → t.busy = true → ∃ n, (nextEdge s).executes (.go n) ∧ s.err = 0#5 ∧ s.ctr.length = 8 ∧
      s.key.length = n.toNat ∧ t.key = s.key ∧ t.ctr = s.ctr ∧ t.err = 0#5) ∧
    (s.busy = true → t.busy = false → (nextEdge s).clears = true ∨ ((nextEdge s).due = true ∧ t.done = true)) ∧
    (s.busy = true → t.busy = true → t.key = s.key ∧ t.ctr = s.ctr ∧ t.code = s.code ∧ t.done = s.done)

/-- 40_host_commands.md R61(a), 44_engine.md R121(d): from an idle block (after a cancelled computation, say) no result
appears as long as no edge executes a `GO`; a code that was there stays the same or goes. -/
def Obligations.NoResultWithoutAStart : Prop :=
  ∀ (k : Nat) (s t : State), s.busy = false → (∀ e ∈ s.inputs, e.starts = false) → run k s = .next t →
    t.busy = false ∧ (t.done = true → s.done = true ∧ t.code = s.code)

/-- 44_engine.md R120: while `BUSY = 0` the engine does nothing: whether a completion is due at an edge makes no difference, also
where the edge's own `GO` starts a computation, which is the model's (log entry 10), as is the due bit (log entry 2). -/
def Obligations.EngineActsOnlyWhileBusy : Prop :=
  ∀ (s : State) (e : Edge), s.busy = false →
    clockEdge { e with due := true } s = clockEdge { e with due := false } s

/-- 70_reset_and_hazards.md R160: in the cycle after an edge the response port is valid exactly if the edge executed a read,
and then holds that read's word on the state before the edge; otherwise it is zero. -/
def Obligations.ResponsePortLastsOneCycle : Prop :=
  ∀ s t : State, step s = .next t →
    (t.rspValid = true ↔ (nextEdge s).executes .rdstat ∨ (nextEdge s).executes .rdcode) ∧
    ((nextEdge s).executes .rdstat → t.rsp = s.status) ∧
    ((nextEdge s).executes .rdcode → t.rsp = s.codeword) ∧
    (t.rspValid = false → t.rsp = 0#32)

/-- 60_exceptions.md R135: what a command does at the very edge at which a running computation completes. -/
def Obligations.CommandAtTheCompletionEdge : Prop :=
  ∀ s : State, s.busy = true → (nextEdge s).due = true →
    (∀ i, (nextEdge s).executes i → ((∃ b, i = .keyb b) ∨ (∃ b, i = .ctrb b) ∨ ∃ n, i = .go n) →
      ∃ t, step s = .next t ∧ t.arch = ([], [], codeOf s.key (memRead s.ctr 0 8), false, true, s.err ||| 0x02#5)) ∧
    ((nextEdge s).executes .clr → ∃ t, step s = .next t ∧ t.arch = State.reset.arch) ∧
    ((nextEdge s).executes .rdstat → ∃ t, step s = .next t ∧ t.response = some s.status ∧
      t.arch = ([], [], codeOf s.key (memRead s.ctr 0 8), false, true, s.err)) ∧
    ((nextEdge s).executes .rdcode → ∃ t, step s = .next t ∧ t.response = some s.codeword ∧
      t.arch = ([], [], codeOf s.key (memRead s.ctr 0 8), false, true, s.err))

/-- 00_scope.md R4, 60_exceptions.md R135: every run of clock edges does to the architectural state what some sequence of
atomic steps of the host, the engine and reset does; and one edge is a reset alone, or at most a host step and then at most a
completion. That a completion asks for a block that was busy before the edge is the model's (log entry 10). -/
def Obligations.ClockEdgesAreAtomicSteps : Prop :=
  (∀ (k : Nat) (s t : State), run k s = .next t → ∃ u, AtomicRun s u ∧ u.arch = t.arch) ∧
  ∀ s t : State, step s = .next t →
    ((nextEdge s).rst = true ∧ t.arch = s.resetStep.arch) ∨
    ((nextEdge s).rst = false ∧ ∃ u,
      (((nextEdge s).cmdValid = true ∧ hostStep (nextEdge s).cmd s = .next u) ∨ ((nextEdge s).cmdValid = false ∧ u = s)) ∧
      ((s.busy = true ∧ (nextEdge s).due = true ∧ u.busy = true ∧ t.arch = u.engineComplete.arch) ∨
        (¬ (s.busy = true ∧ (nextEdge s).due = true ∧ u.busy = true) ∧ t.arch = u.arch)))

/-- 20_memory.md R42, 44_engine.md R122: no interleaving is lost: every sequence of atomic steps of the three agents is what
some list of clock edges does. -/
def Obligations.EveryInterleavingIsSomeEdges : Prop :=
  ∀ (s t : State) (rest : List Edge), AtomicRun s t →
    ∃ (es : List Edge) (t' : State), run es.length { s with inputs := es ++ rest } = .next t' ∧ t'.arch = t.arch ∧
      t'.inputs = rest

/-- 44_engine.md R122: a running computation completes after at least one edge and finitely many, whatever the host does
meanwhile short of `CLR` and reset, and its code is that of the buffers at the start. The bound is the model's: at the latest
the first edge after the listed ones (log entry 2). -/
def Obligations.AStartedComputationCompletes : Prop :=
  ∀ s : State, s.busy = true → (∀ e ∈ s.inputs, e.clears = false) →
    ∃ (k : Nat) (t : State), 1 ≤ k ∧ k ≤ s.inputs.length + 1 ∧ run k s = .next t ∧ t.busy = false ∧ t.done = true ∧
      t.code = codeOf s.key (memRead s.ctr 0 8) ∧ t.key = [] ∧ t.ctr = []

/-- 44_engine.md R123, the end-to-end guarantee: from a state with empty buffers, no flag and no computation running (a code of
an earlier transaction may be there), after any interleaving of the key's and the counter's bytes with reads and empty
edges, then `GO L`, then edges with no `GO`, `CLR` or reset, `RDCODE` answers the HOTP code if the completion fell among those
edges, and zero if it did not. A completion marked due at the edge of the `GO` itself does not happen: that is the model's (log
entry 10), and the clause with answer zero rests on it. One due at the edge of the `RDCODE` comes after the read
(60_exceptions.md R135). That the edges come from a list is the model's (log entry 1). -/
def Obligations.TransactionReturnsTheHotpCode : Prop :=
  ∀ (s : State) (load wait rest : List Edge) (c : BitVec 64) (dueAtGo dueAtRead : Bool),
    s.key = [] → s.ctr = [] → s.err = 0#5 → s.busy = false →
    (∀ e ∈ load, e.loads = true) → (keyBytes load).length ≤ Config.keyMax → ctrBytes load = be8 c →
    (∀ e ∈ wait, e.clears = false ∧ e.starts = false) →
    s.inputs = load ++ [Edge.presenting (.go (BitVec.ofNat 12 (keyBytes load).length)) dueAtGo] ++ wait ++
      [Edge.presenting .rdcode dueAtRead] ++ rest →
    ∃ t : State, run (load.length + wait.length + 2) s = .next t ∧ t.rspValid = true ∧
      ((∃ e ∈ wait, e.due = true) → t.rsp = 0x80000000#32 ||| (hotp (keyBytes load) c).setWidth 32) ∧
      ((∀ e ∈ wait, e.due = false) → t.rsp = 0#32)

/-- 44_engine.md R124(c): of what the host can read only the code depends on the content of the key or the counter: two states
that differ in content alone stay so at every step, and while they hold equal codes every response is the same. The edges to
come, and with them the durations, are the same in both (log entry 14). -/
def Obligations.OnlyTheCodeDependsOnTheSecret : Prop :=
  ∀ s t s' t' : State, SameOutside s t → step s = .next s' → step t = .next t' →
    SameOutside s' t' ∧ (s.code = t.code → s'.rsp = t'.rsp)

/-- 60_exceptions.md R140: a step of one instance moves that instance by `step` and no other. -/
def Obligations.InstancesShareNothing : Prop :=
  ∀ (k : Nat) (sys sys' : List State), stepInstance k sys = .next sys' →
    (∀ j, j ≠ k → sys'[j]? = sys[j]?) ∧
    (∀ s, sys[k]? = some s → ∃ t, step s = .next t ∧ sys'[k]? = some t)

/-! ## The views -/

/-- 30_encoding.md R51: `STATUS` field by field and as the formula, in every state that meets the invariant of 10_state.md R21;
its reset value. -/
def Obligations.StatusHasTheStatedFields : Prop :=
  State.reset.status = 0x00000000#32 ∧
  ∀ s : State, StateInv s →
    s.status.extractLsb' 0 1 = BitVec.ofBool s.busy ∧ s.status.extractLsb' 1 1 = BitVec.ofBool s.done ∧
    s.status.extractLsb' 2 2 = 0#2 ∧
    s.status.extractLsb' 4 1 = BitVec.ofBool (s.flag .ill) ∧ s.status.extractLsb' 5 1 = BitVec.ofBool (s.flag .busy) ∧
    s.status.extractLsb' 6 1 = BitVec.ofBool (s.flag .keyOvf) ∧ s.status.extractLsb' 7 1 = BitVec.ofBool (s.flag .ctrOvf) ∧
    s.status.extractLsb' 8 1 = BitVec.ofBool (s.flag .seq) ∧ s.status.extractLsb' 9 3 = 0#3 ∧
    (s.status.extractLsb' 12 4).toNat = s.ctr.length ∧ (s.status.extractLsb' 16 12).toNat = s.key.length ∧
    s.status.extractLsb' 28 4 = 0#4 ∧
    s.status = (BitVec.ofBool s.busy).setWidth 32 ||| ((BitVec.ofBool s.done).setWidth 32 <<< 1) |||
      (s.err.setWidth 32 <<< 4) ||| (BitVec.ofNat 32 s.ctr.length <<< 12) ||| (BitVec.ofNat 32 s.key.length <<< 16)

/-- 30_encoding.md R52: `CODEWORD` field by field and as the formula; the code's range and the word without a code in every
state that meets the invariant of 10_state.md R21; its reset value. -/
def Obligations.CodewordHasTheStatedFields : Prop :=
  State.reset.codeword = 0x00000000#32 ∧
  ∀ s : State, StateInv s →
    s.codeword.extractLsb' 0 20 = s.code ∧ (s.codeword.extractLsb' 0 20).toNat ≤ 999999 ∧
    s.codeword.extractLsb' 20 11 = 0#11 ∧ s.codeword.extractLsb' 31 1 = BitVec.ofBool s.done ∧
    s.codeword = ((BitVec.ofBool s.done).setWidth 32 <<< 31) ||| s.code.setWidth 32 ∧
    (s.done = false → s.codeword = 0x00000000#32) ∧ (s.done = true → s.code = 0#20 → s.codeword = 0x80000000#32)

/-! ## The engine and the datapath -/

/-- 44_engine.md R121: the completion step on a state that is busy and holds eight counter bytes; (d), (e) while no
computation runs, no atomic step but a `GO` enables a completion, and none makes a code appear. -/
def Obligations.EngineCompleteWritesTheCode : Prop :=
  (∀ s : State, s.busy = true → s.ctr.length = 8 →
    s.engineComplete =
      { s with code := mod1M (dtWindow (hmacSha1 s.key s.ctr) (dtOffset (hmacSha1 s.key s.ctr)))
               done := true, busy := false, key := [], ctr := [] }) ∧
  (∀ s t : State, AtomicStep s t → s.busy = false →
    (t.done = true → s.done = true ∧ t.code = s.code) ∧
    (t.busy = true → ∃ w n, decode w = .command (.go n) ∧ hostStep w s = .next t))

/-- 43_mod_reducer.md R112, 44_engine.md R125: every code is in 0 to 999 999, for every key of any length and every counter. -/
def Obligations.HotpIsBelowOneMillion : Prop :=
  ∀ (k : Bytes) (c : BitVec 64), (hotp k c).toNat ≤ 999999

/-- 41_hmac_sha1.md R82: the shape and the length of the padded message, the least number of zeros, the length field, and its
division into blocks. -/
def Obligations.PaddingIsAsStated : Prop :=
  ∀ x : Bytes,
    (∃ z : Nat, pad x = x ++ [0x80#8] ++ List.replicate z 0x00#8 ++ be8 (BitVec.ofNat 64 (8 * x.length)) ∧
      64 ∣ x.length + 1 + z + 8 ∧ ∀ z' : Nat, 64 ∣ x.length + 1 + z' + 8 → z ≤ z') ∧
    (pad x).length = 64 * ((x.length + 8) / 64 + 1) ∧
    (x.length ≤ 64 + 4095 → fromBE (be8 (BitVec.ofNat 64 (8 * x.length))) = 8 * x.length) ∧
    (blocks (blockCount x.length) (pad x)).flatten = pad x ∧
    (blocks (blockCount x.length) (pad x)).length = (x.length + 8) / 64 + 1 ∧
    ∀ p ∈ blocks (blockCount x.length) (pad x), p.length = 64

/-- 41_hmac_sha1.md R83: the eighty schedule words of a 64-byte block. -/
def Obligations.ScheduleIsAsStated : Prop :=
  ∀ p : Bytes, p.length = 64 →
    (schedule p).length = 80 ∧
    (∀ t, t < 16 → ((schedule p).getD t 0#32).toNat =
      (p.getD (4 * t) 0#8).toNat * 2 ^ 24 + (p.getD (4 * t + 1) 0#8).toNat * 2 ^ 16 +
        (p.getD (4 * t + 2) 0#8).toNat * 2 ^ 8 + (p.getD (4 * t + 3) 0#8).toNat) ∧
    (∀ t, 16 ≤ t → t < 80 → (schedule p).getD t 0#32 =
      rotl 1 ((schedule p).getD (t - 3) 0#32 ^^^ (schedule p).getD (t - 8) 0#32 ^^^ (schedule p).getD (t - 14) 0#32 ^^^
        (schedule p).getD (t - 16) 0#32))

/-- 41_hmac_sha1.md R84: each round function bit by bit (choose, parity, majority), and the constants. -/
def Obligations.RoundFunctionsBitByBit : Prop :=
  ∀ (t : Nat) (b c d : Word32) (i : Nat), i < 32 →
    (t < 20 → (roundFn t b c d).getLsbD i = (if b.getLsbD i then c.getLsbD i else d.getLsbD i) ∧
      roundConst t = 0x5A827999#32) ∧
    (20 ≤ t → t < 40 → (roundFn t b c d).getLsbD i = (b.getLsbD i ^^ c.getLsbD i ^^ d.getLsbD i) ∧
      roundConst t = 0x6ED9EBA1#32) ∧
    (40 ≤ t → t < 60 → (roundFn t b c d).getLsbD i =
        decide (2 ≤ (b.getLsbD i).toNat + (c.getLsbD i).toNat + (d.getLsbD i).toNat) ∧
      roundConst t = 0x8F1BBCDC#32) ∧
    (60 ≤ t → (roundFn t b c d).getLsbD i = (b.getLsbD i ^^ c.getLsbD i ^^ d.getLsbD i) ∧
      roundConst t = 0xCA62C1D6#32)

/-- 41_hmac_sha1.md R86: digest byte `4i + k` is `Hi[31-8k : 24-8k]`, and the last byte is `H4[7:0]`. -/
def Obligations.DigestBytesAreBigEndian : Prop :=
  ∀ (x : Bytes) (i k : Nat), i < 5 → k < 4 →
    (sha1 x).toList.getD (4 * i + k) 0#8 =
      ([(sha1Chain x).a, (sha1Chain x).b, (sha1Chain x).c, (sha1Chain x).d, (sha1Chain x).e].getD i 0#32).extractLsb'
        (24 - 8 * k) 8 ∧
    (sha1 x).toList.getD 19 0#8 = (sha1Chain x).e.extractLsb' 0 8

/-- 41_hmac_sha1.md R87: the key block, with its corner cases (a) to (e). -/
def Obligations.KeyPreparationIsAsStated : Prop :=
  (∀ k : Bytes, (keyBlock k).length = 64) ∧
  (∀ k : Bytes, k.length ≤ 64 → keyBlock k = k ++ List.replicate (64 - k.length) 0x00#8) ∧
  (∀ k : Bytes, 64 < k.length → keyBlock k = (sha1 k).toList ++ List.replicate 44 0x00#8) ∧
  keyBlock [] = List.replicate 64 0x00#8 ∧
  (∀ k : Bytes, k.length = 64 → keyBlock k = k) ∧
  (∀ (k m : Bytes) (z : Nat), k.length + z ≤ 64 →
    keyBlock (k ++ List.replicate z 0x00#8) = keyBlock k ∧ hmacSha1 (k ++ List.replicate z 0x00#8) m = hmacSha1 k m ∧
      codeOf (k ++ List.replicate z 0x00#8) m = codeOf k m) ∧
  (∀ k m : Bytes, 64 < k.length →
    keyBlock (sha1 k).toList = keyBlock k ∧ hmacSha1 (sha1 k).toList m = hmacSha1 k m)

/-- 41_hmac_sha1.md R88, R89: for the block's 8-byte message each of the two hashes is two compressions from the initial value,
over the blocks R89 names. -/
def Obligations.HmacIsFourCompressions : Prop :=
  ∀ k m : Bytes, m.length = 8 →
    hmacInner k m =
      (compress (compress sha1IV ((keyBlock k).map (· ^^^ 0x36#8)))
        (m ++ [0x80#8] ++ List.replicate 47 0x00#8 ++ [0#8, 0#8, 0#8, 0#8, 0#8, 0#8, 0x02#8, 0x40#8])).digest ∧
    hmacSha1 k m =
      (compress (compress sha1IV ((keyBlock k).map (· ^^^ 0x5C#8)))
        ((hmacInner k m).toList ++ [0x80#8] ++ List.replicate 35 0x00#8 ++
          [0#8, 0#8, 0#8, 0#8, 0#8, 0#8, 0x02#8, 0xA0#8])).digest

/-- 42_truncation.md R101: the offset is the low four bits of the digest's last byte, every value occurs, and of a hash it is
`H4[3:0]`. -/
def Obligations.OffsetIsTheLastNibble : Prop :=
  (∀ d : Digest, (dtOffset d).toNat = d[19].toNat % 16 ∧ dtOffset d = d[19].extractLsb' 0 4) ∧
  (∀ o : BitVec 4, ∃ d : Digest, dtOffset d = o) ∧
  ∀ x : Bytes, dtOffset (sha1 x) = (sha1Chain x).e.extractLsb' 0 4

/-- 42_truncation.md R102: the truncated value as a number and bit by bit; the top bit of the first window byte and the digest's
last byte do not matter. -/
def Obligations.WindowIsAsStated : Prop :=
  ∀ (d : Digest) (o : BitVec 4),
    (dtWindow d o).toNat =
      (d.toList.getD o.toNat 0#8).toNat % 128 * 2 ^ 24 + (d.toList.getD (o.toNat + 1) 0#8).toNat * 2 ^ 16 +
        (d.toList.getD (o.toNat + 2) 0#8).toNat * 2 ^ 8 + (d.toList.getD (o.toNat + 3) 0#8).toNat ∧
    (dtWindow d o).extractLsb' 24 7 = (d.toList.getD o.toNat 0#8).extractLsb' 0 7 ∧
    (dtWindow d o).extractLsb' 16 8 = d.toList.getD (o.toNat + 1) 0#8 ∧
    (dtWindow d o).extractLsb' 8 8 = d.toList.getD (o.toNat + 2) 0#8 ∧
    (dtWindow d o).extractLsb' 0 8 = d.toList.getD (o.toNat + 3) 0#8 ∧
    (∀ b : Byte, dtWindow (d.set 19 b) o = dtWindow d o) ∧
    (∀ d' : Digest, (∀ j, j ≠ o.toNat → d'.toList.getD j 0#8 = d.toList.getD j 0#8) →
      d'.toList.getD o.toNat 0#8 = d.toList.getD o.toNat 0#8 ^^^ 0x80#8 → dtWindow d' o = dtWindow d o)

/-- 43_mod_reducer.md R111, R112: the remainder, its range, its uniqueness, the quotient's bound, and that every code is
reached. -/
def Obligations.ReducerIsTheRemainder : Prop :=
  (∀ v : BitVec 31,
    (mod1M v).toNat = v.toNat - 1000000 * (v.toNat / 1000000) ∧ (mod1M v).toNat ≤ 999999 ∧ v.toNat / 1000000 ≤ 2147 ∧
    ∀ c : Nat, c ≤ 999999 → c % 1000000 = v.toNat % 1000000 → (mod1M v).toNat = c) ∧
  ∀ c : Nat, c ≤ 999999 → (mod1M (BitVec.ofNat 31 c)).toNat = c

/-- 43_mod_reducer.md R113: its corner cases, where the reducer is the identity, and how many of the 2^31 inputs give each
code. -/
def Obligations.ReducerCornerCases : Prop :=
  mod1M 0#31 = 0#20 ∧ mod1M 1#31 = 1#20 ∧ mod1M 999999#31 = 999999#20 ∧ mod1M 1000000#31 = 0#20 ∧
  mod1M 1000001#31 = 1#20 ∧ mod1M 1999999#31 = 999999#20 ∧ mod1M 2000000#31 = 0#20 ∧ mod1M 2146999999#31 = 999999#20 ∧
  mod1M 2147000000#31 = 0#20 ∧ mod1M 2147483647#31 = 483647#20 ∧ mod1M 16909060#31 = 909060#20 ∧
  mod1M 234823178#31 = 823178#20 ∧ mod1M 537921540#31 = 921540#20 ∧ mod1M 824083773#31 = 83773#20 ∧
  (∀ v : BitVec 31, (mod1M v).toNat = v.toNat ↔ v.toNat ≤ 999999) ∧
  (∀ v : BitVec 31, 2146999999 < v.toNat → (mod1M v).toNat ≠ 999999) ∧
  (∀ v : BitVec 31, 2147000000 < v.toNat → v.toNat % 1000000 ≠ 0) ∧
  ∀ c : Nat, c ≤ 999999 →
    ((Finset.range (2 ^ 31)).filter fun v => mod1M (BitVec.ofNat 31 v) = BitVec.ofNat 20 c).card =
      if c ≤ 483647 then 2148 else 2147
end

