-- ==== Sys2Proof/Laws/State.lean ====
section
/-! SUPPORT. What each named update of the state does to each field, one lemma a field; writing at a buffer's length appends. -/
namespace Sys2Proof.Machine

/-- Writing at the length appends (20_memory.md R31). -/
@[simp] theorem memWrite_at_length (buf v : Bytes) : memWrite buf buf.length v = buf ++ v := by
  simp [memWrite]

/-! `State.raise`. -/

@[simp] theorem State.raise_key (f : ErrFlag) (s : State) : (s.raise f).key = s.key := rfl
@[simp] theorem State.raise_ctr (f : ErrFlag) (s : State) : (s.raise f).ctr = s.ctr := rfl
@[simp] theorem State.raise_code (f : ErrFlag) (s : State) : (s.raise f).code = s.code := rfl
@[simp] theorem State.raise_busy (f : ErrFlag) (s : State) : (s.raise f).busy = s.busy := rfl
@[simp] theorem State.raise_done (f : ErrFlag) (s : State) : (s.raise f).done = s.done := rfl
@[simp] theorem State.raise_err (f : ErrFlag) (s : State) : (s.raise f).err = s.err ||| f.mask := rfl
@[simp] theorem State.raise_rspValid (f : ErrFlag) (s : State) : (s.raise f).rspValid = s.rspValid := rfl
@[simp] theorem State.raise_rsp (f : ErrFlag) (s : State) : (s.raise f).rsp = s.rsp := rfl
@[simp] theorem State.raise_inputs (f : ErrFlag) (s : State) : (s.raise f).inputs = s.inputs := rfl

/-! `State.noResponse`. -/

@[simp] theorem State.noResponse_key (s : State) : s.noResponse.key = s.key := rfl
@[simp] theorem State.noResponse_ctr (s : State) : s.noResponse.ctr = s.ctr := rfl
@[simp] theorem State.noResponse_code (s : State) : s.noResponse.code = s.code := rfl
@[simp] theorem State.noResponse_busy (s : State) : s.noResponse.busy = s.busy := rfl
@[simp] theorem State.noResponse_done (s : State) : s.noResponse.done = s.done := rfl
@[simp] theorem State.noResponse_err (s : State) : s.noResponse.err = s.err := rfl
@[simp] theorem State.noResponse_rspValid (s : State) : s.noResponse.rspValid = false := rfl
@[simp] theorem State.noResponse_rsp (s : State) : s.noResponse.rsp = 0#32 := rfl
@[simp] theorem State.noResponse_inputs (s : State) : s.noResponse.inputs = s.inputs := rfl

/-! `State.respond`. -/

@[simp] theorem State.respond_key (w : Word32) (s : State) : (s.respond w).key = s.key := rfl
@[simp] theorem State.respond_ctr (w : Word32) (s : State) : (s.respond w).ctr = s.ctr := rfl
@[simp] theorem State.respond_code (w : Word32) (s : State) : (s.respond w).code = s.code := rfl
@[simp] theorem State.respond_busy (w : Word32) (s : State) : (s.respond w).busy = s.busy := rfl
@[simp] theorem State.respond_done (w : Word32) (s : State) : (s.respond w).done = s.done := rfl
@[simp] theorem State.respond_err (w : Word32) (s : State) : (s.respond w).err = s.err := rfl
@[simp] theorem State.respond_rspValid (w : Word32) (s : State) : (s.respond w).rspValid = true := rfl
@[simp] theorem State.respond_rsp (w : Word32) (s : State) : (s.respond w).rsp = w := rfl
@[simp] theorem State.respond_inputs (w : Word32) (s : State) : (s.respond w).inputs = s.inputs := rfl

/-! `State.clearResult`. -/

@[simp] theorem State.clearResult_key (s : State) : s.clearResult.key = s.key := rfl
@[simp] theorem State.clearResult_ctr (s : State) : s.clearResult.ctr = s.ctr := rfl
@[simp] theorem State.clearResult_code (s : State) : s.clearResult.code = 0#20 := rfl
@[simp] theorem State.clearResult_busy (s : State) : s.clearResult.busy = s.busy := rfl
@[simp] theorem State.clearResult_done (s : State) : s.clearResult.done = false := rfl
@[simp] theorem State.clearResult_err (s : State) : s.clearResult.err = s.err := rfl
@[simp] theorem State.clearResult_rspValid (s : State) : s.clearResult.rspValid = s.rspValid := rfl
@[simp] theorem State.clearResult_rsp (s : State) : s.clearResult.rsp = s.rsp := rfl
@[simp] theorem State.clearResult_inputs (s : State) : s.clearResult.inputs = s.inputs := rfl

/-! `State.start`. -/

@[simp] theorem State.start_key (s : State) : s.start.key = s.key := rfl
@[simp] theorem State.start_ctr (s : State) : s.start.ctr = s.ctr := rfl
@[simp] theorem State.start_code (s : State) : s.start.code = s.code := rfl
@[simp] theorem State.start_busy (s : State) : s.start.busy = true := rfl
@[simp] theorem State.start_done (s : State) : s.start.done = s.done := rfl
@[simp] theorem State.start_err (s : State) : s.start.err = s.err := rfl
@[simp] theorem State.start_rspValid (s : State) : s.start.rspValid = s.rspValid := rfl
@[simp] theorem State.start_rsp (s : State) : s.start.rsp = s.rsp := rfl
@[simp] theorem State.start_inputs (s : State) : s.start.inputs = s.inputs := rfl

/-! `State.finish`. -/

@[simp] theorem State.finish_key (c : BitVec 20) (s : State) : (s.finish c).key = s.key := rfl
@[simp] theorem State.finish_ctr (c : BitVec 20) (s : State) : (s.finish c).ctr = s.ctr := rfl
@[simp] theorem State.finish_code (c : BitVec 20) (s : State) : (s.finish c).code = c := rfl
@[simp] theorem State.finish_busy (c : BitVec 20) (s : State) : (s.finish c).busy = false := rfl
@[simp] theorem State.finish_done (c : BitVec 20) (s : State) : (s.finish c).done = true := rfl
@[simp] theorem State.finish_err (c : BitVec 20) (s : State) : (s.finish c).err = s.err := rfl
@[simp] theorem State.finish_rspValid (c : BitVec 20) (s : State) : (s.finish c).rspValid = s.rspValid := rfl
@[simp] theorem State.finish_rsp (c : BitVec 20) (s : State) : (s.finish c).rsp = s.rsp := rfl
@[simp] theorem State.finish_inputs (c : BitVec 20) (s : State) : (s.finish c).inputs = s.inputs := rfl

/-! `State.appendKey`. -/

@[simp] theorem State.appendKey_key (b : Byte) (s : State) : (s.appendKey b).key = s.key ++ [b] := memWrite_at_length _ _
@[simp] theorem State.appendKey_ctr (b : Byte) (s : State) : (s.appendKey b).ctr = s.ctr := rfl
@[simp] theorem State.appendKey_code (b : Byte) (s : State) : (s.appendKey b).code = s.code := rfl
@[simp] theorem State.appendKey_busy (b : Byte) (s : State) : (s.appendKey b).busy = s.busy := rfl
@[simp] theorem State.appendKey_done (b : Byte) (s : State) : (s.appendKey b).done = s.done := rfl
@[simp] theorem State.appendKey_err (b : Byte) (s : State) : (s.appendKey b).err = s.err := rfl
@[simp] theorem State.appendKey_rspValid (b : Byte) (s : State) : (s.appendKey b).rspValid = s.rspValid := rfl
@[simp] theorem State.appendKey_rsp (b : Byte) (s : State) : (s.appendKey b).rsp = s.rsp := rfl
@[simp] theorem State.appendKey_inputs (b : Byte) (s : State) : (s.appendKey b).inputs = s.inputs := rfl

/-! `State.appendCtr`. -/

@[simp] theorem State.appendCtr_key (b : Byte) (s : State) : (s.appendCtr b).key = s.key := rfl
@[simp] theorem State.appendCtr_ctr (b : Byte) (s : State) : (s.appendCtr b).ctr = s.ctr ++ [b] := memWrite_at_length _ _
@[simp] theorem State.appendCtr_code (b : Byte) (s : State) : (s.appendCtr b).code = s.code := rfl
@[simp] theorem State.appendCtr_busy (b : Byte) (s : State) : (s.appendCtr b).busy = s.busy := rfl
@[simp] theorem State.appendCtr_done (b : Byte) (s : State) : (s.appendCtr b).done = s.done := rfl
@[simp] theorem State.appendCtr_err (b : Byte) (s : State) : (s.appendCtr b).err = s.err := rfl
@[simp] theorem State.appendCtr_rspValid (b : Byte) (s : State) : (s.appendCtr b).rspValid = s.rspValid := rfl
@[simp] theorem State.appendCtr_rsp (b : Byte) (s : State) : (s.appendCtr b).rsp = s.rsp := rfl
@[simp] theorem State.appendCtr_inputs (b : Byte) (s : State) : (s.appendCtr b).inputs = s.inputs := rfl

/-! `State.erase`. -/

@[simp] theorem State.erase_key (s : State) : s.erase.key = [] := rfl
@[simp] theorem State.erase_ctr (s : State) : s.erase.ctr = [] := rfl
@[simp] theorem State.erase_code (s : State) : s.erase.code = s.code := rfl
@[simp] theorem State.erase_busy (s : State) : s.erase.busy = s.busy := rfl
@[simp] theorem State.erase_done (s : State) : s.erase.done = s.done := rfl
@[simp] theorem State.erase_err (s : State) : s.erase.err = s.err := rfl
@[simp] theorem State.erase_rspValid (s : State) : s.erase.rspValid = s.rspValid := rfl
@[simp] theorem State.erase_rsp (s : State) : s.erase.rsp = s.rsp := rfl
@[simp] theorem State.erase_inputs (s : State) : s.erase.inputs = s.inputs := rfl

/-! `State.cleared`. -/

@[simp] theorem State.cleared_key (s : State) : s.cleared.key = [] := rfl
@[simp] theorem State.cleared_ctr (s : State) : s.cleared.ctr = [] := rfl
@[simp] theorem State.cleared_code (s : State) : s.cleared.code = 0#20 := rfl
@[simp] theorem State.cleared_busy (s : State) : s.cleared.busy = false := rfl
@[simp] theorem State.cleared_done (s : State) : s.cleared.done = false := rfl
@[simp] theorem State.cleared_err (s : State) : s.cleared.err = 0#5 := rfl
@[simp] theorem State.cleared_rspValid (s : State) : s.cleared.rspValid = s.rspValid := rfl
@[simp] theorem State.cleared_rsp (s : State) : s.cleared.rsp = s.rsp := rfl
@[simp] theorem State.cleared_inputs (s : State) : s.cleared.inputs = s.inputs := rfl

/-! `State.resetStep`. -/

@[simp] theorem State.resetStep_key (s : State) : s.resetStep.key = [] := rfl
@[simp] theorem State.resetStep_ctr (s : State) : s.resetStep.ctr = [] := rfl
@[simp] theorem State.resetStep_code (s : State) : s.resetStep.code = 0#20 := rfl
@[simp] theorem State.resetStep_busy (s : State) : s.resetStep.busy = false := rfl
@[simp] theorem State.resetStep_done (s : State) : s.resetStep.done = false := rfl
@[simp] theorem State.resetStep_err (s : State) : s.resetStep.err = 0#5 := rfl
@[simp] theorem State.resetStep_rspValid (s : State) : s.resetStep.rspValid = false := rfl
@[simp] theorem State.resetStep_rsp (s : State) : s.resetStep.rsp = 0#32 := rfl
@[simp] theorem State.resetStep_inputs (s : State) : s.resetStep.inputs = s.inputs := rfl

/-! `State.engineComplete`. -/

@[simp] theorem State.engineComplete_key (s : State) : s.engineComplete.key = [] := rfl
@[simp] theorem State.engineComplete_ctr (s : State) : s.engineComplete.ctr = [] := rfl
@[simp] theorem State.engineComplete_code (s : State) : s.engineComplete.code = codeOf (memRead s.key 0 s.key.length) (memRead s.ctr 0 Config.ctrLen) := rfl
@[simp] theorem State.engineComplete_busy (s : State) : s.engineComplete.busy = false := rfl
@[simp] theorem State.engineComplete_done (s : State) : s.engineComplete.done = true := rfl
@[simp] theorem State.engineComplete_err (s : State) : s.engineComplete.err = s.err := rfl
@[simp] theorem State.engineComplete_rspValid (s : State) : s.engineComplete.rspValid = s.rspValid := rfl
@[simp] theorem State.engineComplete_rsp (s : State) : s.engineComplete.rsp = s.rsp := rfl
@[simp] theorem State.engineComplete_inputs (s : State) : s.engineComplete.inputs = s.inputs := rfl

/-! `State.consumeEdge`. -/

@[simp] theorem State.consumeEdge_key (s : State) : s.consumeEdge.key = s.key := rfl
@[simp] theorem State.consumeEdge_ctr (s : State) : s.consumeEdge.ctr = s.ctr := rfl
@[simp] theorem State.consumeEdge_code (s : State) : s.consumeEdge.code = s.code := rfl
@[simp] theorem State.consumeEdge_busy (s : State) : s.consumeEdge.busy = s.busy := rfl
@[simp] theorem State.consumeEdge_done (s : State) : s.consumeEdge.done = s.done := rfl
@[simp] theorem State.consumeEdge_err (s : State) : s.consumeEdge.err = s.err := rfl
@[simp] theorem State.consumeEdge_rspValid (s : State) : s.consumeEdge.rspValid = s.rspValid := rfl
@[simp] theorem State.consumeEdge_rsp (s : State) : s.consumeEdge.rsp = s.rsp := rfl
@[simp] theorem State.consumeEdge_inputs (s : State) : s.consumeEdge.inputs = s.inputs.tail := rfl

/-! `State.present`. -/

@[simp] theorem State.present_key (w : CmdWord) (s : State) : (s.present w).key = s.key := rfl
@[simp] theorem State.present_ctr (w : CmdWord) (s : State) : (s.present w).ctr = s.ctr := rfl
@[simp] theorem State.present_code (w : CmdWord) (s : State) : (s.present w).code = s.code := rfl
@[simp] theorem State.present_busy (w : CmdWord) (s : State) : (s.present w).busy = s.busy := rfl
@[simp] theorem State.present_done (w : CmdWord) (s : State) : (s.present w).done = s.done := rfl
@[simp] theorem State.present_err (w : CmdWord) (s : State) : (s.present w).err = s.err := rfl
@[simp] theorem State.present_rspValid (w : CmdWord) (s : State) : (s.present w).rspValid = s.rspValid := rfl
@[simp] theorem State.present_rsp (w : CmdWord) (s : State) : (s.present w).rsp = s.rsp := rfl
@[simp] theorem State.present_inputs (w : CmdWord) (s : State) : (s.present w).inputs = Edge.command w :: s.inputs := rfl

end Sys2Proof.Machine
end

