-- ==== Sys2Proof/Laws/Ops.lean ====
section
/-! SUPPORT. What each shared operation can do, said once: the buffers, the port, the checks, the phases of an edge. -/
namespace Sys2Proof.Machine

/-! The fixed constants (00_scope.md R7). -/

@[simp] theorem ctrLen_eq : Config.ctrLen = 8 := rfl

@[simp] theorem blockLen_eq : Config.blockLen = 64 := rfl

@[simp] theorem modulus_eq : Config.modulus = 1000000 := rfl

/-! Byte order. -/

@[simp] theorem be4_length (w : Word32) : (be4 w).length = 4 := rfl

@[simp] theorem be8_length (v : BitVec 64) : (be8 v).length = 8 := rfl

@[simp] theorem fromBE_nil : fromBE [] = 0 := rfl

/-- The last byte of a big-endian field is its least significant one (00_scope.md R8(e)). -/
theorem fromBE_append_byte (x : Bytes) (b : Byte) : fromBE (x ++ [b]) = 256 * fromBE x + b.toNat := by
  simp [fromBE]

/-! The buffers. -/

/-- The engine reads a whole buffer (20_memory.md R32). -/
@[simp] theorem memRead_whole (buf : Bytes) : memRead buf 0 buf.length = buf := by
  simp [memRead]

/-- A read of as many bytes as the buffer holds gives all of it. -/
theorem memRead_of_length {buf : Bytes} {n : Nat} (h : buf.length = n) : memRead buf 0 n = buf := by
  subst h
  exact memRead_whole buf

/-- The byte appended is read at the old length (20_memory.md R31). -/
theorem memReadByte_append_same (buf : Bytes) (b : Byte) :
    memReadByte (memWrite buf buf.length [b]) buf.length = some b := by
  simp [memReadByte]

/-- Every other address reads as before the append. -/
theorem memReadByte_append_other (buf : Bytes) (b : Byte) {a : Nat} (h : a ≠ buf.length) :
    memReadByte (memWrite buf buf.length [b]) a = memReadByte buf a := by
  rw [memWrite_at_length]
  unfold memReadByte
  rcases Nat.lt_or_gt_of_ne h with hlt | hgt
  · exact List.getElem?_append_left hlt
  · rw [List.getElem?_eq_none (by simp; omega), List.getElem?_eq_none (by omega)]

/-- A byte exists exactly below the length (10_state.md R11). -/
theorem memReadByte_exists_iff (buf : Bytes) (a : Nat) : (memReadByte buf a).isSome = true ↔ a < buf.length := by
  simp [memReadByte]

/-- Appending to a buffer with room keeps it within its capacity (20_memory.md R31). -/
theorem fits_append {capacity : Nat} {buf : Bytes} (b : Byte) (hne : buf.length ≠ capacity)
    (h : Memory.fits capacity buf = true) : Memory.fits capacity (memWrite buf buf.length [b]) = true := by
  simp only [Memory.fits, decide_eq_true_eq, memWrite_at_length, List.length_append, List.length_singleton] at *
  omega

/-- Erasing the buffers keeps the canonical form. -/
theorem wf_erase (s : State) : Memory.wf s.erase = true := by
  simp [Memory.wf, Memory.fits]

/-- Clearing the block keeps the canonical form. -/
theorem wf_cleared (s : State) : Memory.wf s.cleared = true := by
  simp [Memory.wf, Memory.fits]

/-- A `KEYB` that appends keeps the canonical form. -/
theorem wf_append_key (s : State) (b : Byte) (hne : s.key.length ≠ Config.keyMax) (h : Memory.wf s = true) :
    Memory.wf (s.appendKey b) = true := by
  simp only [Memory.wf, Bool.and_eq_true] at *
  exact ⟨fits_append b hne h.1, h.2⟩

/-- A `CTRB` that appends keeps the canonical form. -/
theorem wf_append_ctr (s : State) (b : Byte) (hne : s.ctr.length ≠ Config.ctrLen) (h : Memory.wf s = true) :
    Memory.wf (s.appendCtr b) = true := by
  simp only [Memory.wf, Bool.and_eq_true] at *
  exact ⟨h.1, fits_append b hne h.2⟩

/-- The reset state's buffers are in canonical form. -/
theorem wf_reset : Memory.wf State.reset = true := by
  simp [Memory.wf, Memory.fits, State.reset]

/-- `KEY_MAX` lies in the range of 00_scope.md R6. -/
theorem keyMax_range : 20 ≤ Config.keyMax ∧ Config.keyMax ≤ 4095 := by
  have := Config.keyRoom.isLt
  simp only [Config.keyMax]
  omega

/-! The views. -/

/-- `STATUS` shows the lengths, the flags and nothing else (20_memory.md R32, R39). -/
theorem status_congr {s t : State} (hk : s.key.length = t.key.length) (hc : s.ctr.length = t.ctr.length)
    (hb : s.busy = t.busy) (hd : s.done = t.done) (he : s.err = t.err) : s.status = t.status := by
  unfold State.status State.klen State.clen
  rw [hk, hc, hb, hd, he]

/-- `CODEWORD` shows `DONE` and `CODE` and nothing else (20_memory.md R39). -/
theorem codeword_congr {s t : State} (hd : s.done = t.done) (hc : s.code = t.code) : s.codeword = t.codeword := by
  unfold State.codeword
  rw [hd, hc]

@[simp] theorem status_consumeEdge (s : State) : s.consumeEdge.status = s.status := status_congr rfl rfl rfl rfl rfl

@[simp] theorem codeword_consumeEdge (s : State) : s.consumeEdge.codeword = s.codeword := codeword_congr rfl rfl

@[simp] theorem status_respond (w : Word32) (s : State) : (s.respond w).status = s.status :=
  status_congr rfl rfl rfl rfl rfl

@[simp] theorem codeword_respond (w : Word32) (s : State) : (s.respond w).codeword = s.codeword := codeword_congr rfl rfl

/-! The checks and the errors. -/

/-- The mask of a flag has that flag's bit and no other. -/
theorem mask_bit (f g : ErrFlag) : f.mask.getLsbD g.index = decide (f = g) := by
  cases f <;> cases g <;> decide

/-- Raising a flag sets it and leaves the others as they were (10_state.md R18). -/
theorem flag_raise (f g : ErrFlag) (s : State) : (s.raise f).flag g = (s.flag g || decide (f = g)) := by
  simp only [State.flag, State.raise_err, BitVec.getLsbD_or, mask_bit]

theorem reject_eq (f : ErrFlag) (s : State) : reject f s = .next (s.raise f).noResponse := rfl

theorem unlessBusy_of_busy {s : State} (h : s.busy = true) (body : Result) : unlessBusy s body = reject .busy s := by
  simp [unlessBusy, h]

theorem unlessBusy_of_idle {s : State} (h : s.busy = false) (body : Result) : unlessBusy s body = body := by
  simp [unlessBusy, h]

/-- Everything a command checked for `BUSY` first can do. -/
theorem unlessBusy_cases {s t : State} {body : Result} (h : unlessBusy s body = .next t) :
    (s.busy = true ∧ t = (s.raise .busy).noResponse) ∨ (s.busy = false ∧ body = .next t) := by
  cases hb : s.busy with
  | true =>
    rw [unlessBusy_of_busy hb, reject_eq] at h
    exact .inl ⟨rfl, (Host.Outcome.next.inj h).symm⟩
  | false =>
    rw [unlessBusy_of_idle hb] at h
    exact .inr ⟨rfl, h⟩

/-- When an idle block refuses `GO n` (60_exceptions.md R130). -/
theorem seqError_iff (n : BitVec 12) (s : State) :
    seqError n s = true ↔ s.err ≠ 0#5 ∨ s.ctr.length ≠ 8 ∨ s.key.length ≠ n.toNat := by
  simp [seqError, or_assoc]

/-! The phases of an edge. -/

/-- Everything the engine's part of an edge can do (60_exceptions.md R135). -/
theorem enginePhase_cases (wasBusy due : Bool) (s : State) :
    (wasBusy = true ∧ due = true ∧ s.busy = true ∧ enginePhase wasBusy due s = s.engineComplete) ∨
      (¬ (wasBusy = true ∧ due = true ∧ s.busy = true) ∧ enginePhase wasBusy due s = s) := by
  cases wasBusy <;> cases due <;> cases h : s.busy <;> simp [enginePhase, h]

/-- Everything an edge that ends in a next state can have done (60_exceptions.md R135). -/
theorem clockEdge_cases {e : Edge} {s t : State} (h : clockEdge e s = .next t) :
    (e.rst = true ∧ t = s.resetStep) ∨
      (e.rst = false ∧ ∃ u, hostPhase e s = .next u ∧ t = enginePhase s.busy e.due u) := by
  unfold clockEdge at h
  cases hr : e.rst with
  | true =>
    simp only [hr, if_true] at h
    exact .inl ⟨rfl, (Host.Outcome.next.inj h).symm⟩
  | false =>
    refine .inr ⟨rfl, ?_⟩
    simp only [hr, Bool.false_eq_true, if_false] at h
    cases hp : hostPhase e s with
    | next u =>
      rw [hp] at h
      exact ⟨u, rfl, (Host.Outcome.next.inj h).symm⟩
    | fault r => exact nomatch r
    | refused r => rw [hp] at h; cases h

/-- Everything the host's part of an edge can do (70_reset_and_hazards.md R160). -/
theorem hostPhase_cases (e : Edge) (s : State) :
    (e.cmdValid = false ∧ hostPhase e s = .next s.noResponse) ∨
      (e.cmdValid = true ∧ ∃ why, decode e.cmd = .illegal why ∧ hostPhase e s = illegalWord s) ∨
      (e.cmdValid = true ∧ ∃ i, decode e.cmd = .command i ∧ hostPhase e s = exec i s) := by
  cases hv : e.cmdValid with
  | false => exact .inl ⟨rfl, by simp [hostPhase, hv]⟩
  | true =>
    cases hd : decode e.cmd with
    | illegal why => exact .inr (.inl ⟨rfl, why, rfl, by simp [hostPhase, hv, hostStep, hd]⟩)
    | command i => exact .inr (.inr ⟨rfl, i, rfl, by simp [hostPhase, hv, hostStep, hd]⟩)

/-- A step is the next edge, on the state without it. -/
theorem step_eq (s : State) : step s = clockEdge (nextEdge s) s.consumeEdge := rfl

@[simp] theorem nextEdge_cons (s : State) (e : Edge) (es : List Edge) (h : s.inputs = e :: es) : nextEdge s = e := by
  simp [nextEdge, h]

@[simp] theorem nextEdge_nil (s : State) (h : s.inputs = []) : nextEdge s = Edge.quiet := by
  simp [nextEdge, h]

end Sys2Proof.Machine
end

