-- ==== Sys2Proof/Laws/PerInstr.lean ====
section
/-! SUPPORT. Statements made once for each instruction, as syntax. -/

/-- The opcode field of a command's word is the `op` of its row (30_encoding.md R48), and the word's bits are those the row's
match and mask say (30_encoding.md R48). -/
def Sys2Proof.Laws.Opcode.Statement (i : Sys2Proof.Instr) : Prop :=
  Sys2Proof.Machine.opField (Sys2Proof.encode i) = Sys2Proof.opcode i.mnemonic ∧
    Sys2Proof.selects i.mnemonic (Sys2Proof.encode i) = true

theorem Sys2Proof.Laws.Opcode.clr : Sys2Proof.Laws.Opcode.Statement .clr := by
  unfold Sys2Proof.Laws.Opcode.Statement; decide

theorem Sys2Proof.Laws.Opcode.keyb (b : Sys2Proof.Byte) : Sys2Proof.Laws.Opcode.Statement (.keyb b) := by
  unfold Sys2Proof.Laws.Opcode.Statement; revert b; decide

theorem Sys2Proof.Laws.Opcode.ctrb (b : Sys2Proof.Byte) : Sys2Proof.Laws.Opcode.Statement (.ctrb b) := by
  unfold Sys2Proof.Laws.Opcode.Statement; revert b; decide

theorem Sys2Proof.Laws.Opcode.go (n : BitVec 12) : Sys2Proof.Laws.Opcode.Statement (.go n) := by
  unfold Sys2Proof.Laws.Opcode.Statement; revert n; decide +kernel

theorem Sys2Proof.Laws.Opcode.rdstat : Sys2Proof.Laws.Opcode.Statement .rdstat := by
  unfold Sys2Proof.Laws.Opcode.Statement; decide

theorem Sys2Proof.Laws.Opcode.rdcode : Sys2Proof.Laws.Opcode.Statement .rdcode := by
  unfold Sys2Proof.Laws.Opcode.Statement; decide
end

