-- ==== Sys2Proof/Laws/Pseudo.lean ====
section
/-! SUPPORT. What the host's actions can do: an edge, a turn of the loop `POLL`, a sequence. -/
namespace Sys2Proof.Machine

@[simp] theorem Performed.after_commands (cs : List Instr) (r : Performed) : (r.after cs).commands = cs ++ r.commands := rfl
@[simp] theorem Performed.after_dues (cs : List Instr) (r : Performed) : (r.after cs).dues = r.dues := rfl
@[simp] theorem Performed.after_state (cs : List Instr) (r : Performed) : (r.after cs).state = r.state := rfl
@[simp] theorem Performed.after_ended (cs : List Instr) (r : Performed) : (r.after cs).ended = r.ended := rfl

/-- An edge that gives a next state, followed by what performs on it. -/
theorem performEdge_of_next {e : Edge} {s t : State} {r : Performed} {andThen : State → Performance} (cs : List Instr)
    (he : clockEdge e s = .next t) (hr : andThen t = .next r) : performEdge cs e s andThen = .next (r.after cs) := by
  simp only [performEdge, he, hr]

/-- An edge that presents a command is `exec` of it, then the engine's part (60_exceptions.md R135). -/
theorem clockEdge_presenting {i : Instr} {s t : State} (due : Bool) (hd : decode (encode i) = .command i)
    (h : exec i s = .next t) : clockEdge (Edge.presenting i due) s = .next (enginePhase s.busy due t) := by
  simp [clockEdge, Edge.presenting, hostPhase, hostStep, hd, h, andThenEngine]

/-- An `RDSTAT` edge answers the status of the state before it, and a running computation completes if it is due. -/
theorem clockEdge_rdstat (due : Bool) (s : State) :
    clockEdge (Edge.presenting .rdstat due) s = .next (enginePhase s.busy due (s.respond s.status)) :=
  clockEdge_presenting due (by decide) rfl

/-- The engine's part of an edge leaves the response. -/
@[simp] theorem enginePhase_rsp (wasBusy due : Bool) (s : State) : (enginePhase wasBusy due s).rsp = s.rsp := by
  unfold enginePhase
  split <;> rfl

@[simp] theorem enginePhase_rspValid (wasBusy due : Bool) (s : State) :
    (enginePhase wasBusy due s).rspValid = s.rspValid := by
  unfold enginePhase
  split <;> rfl

/-- Bit 0 of `STATUS` is `BUSY` (30_encoding.md R51). -/
theorem status_bit_busy (s : State) : s.status.getLsbD 0 = s.busy := by
  unfold State.status
  rw [BitVec.getLsbD_append]
  cases s.busy <;> rfl

/-- `POLL` ends at an `RDSTAT` exactly if the block was idle before it. -/
theorem pollEnds_after_rdstat (wasBusy due : Bool) (s : State) :
    pollEnds (enginePhase wasBusy due (s.respond s.status)) = !s.busy := by
  rw [pollEnds, enginePhase_rsp, State.respond_rsp, status_bit_busy]

/-- The turn that ends `POLL`: the block was idle before it. -/
theorem poll_cons_idle {s : State} (due : Bool) (dues : List Bool) (h : s.busy = false) :
    poll (due :: dues) s = .next ⟨[.rdstat], dues, s.respond s.status, true⟩ := by
  have he : enginePhase s.busy due (s.respond s.status) = s.respond s.status := by
    simp only [enginePhase, h, Bool.false_and, Bool.false_eq_true, if_false]
  have hp := pollEnds_after_rdstat s.busy due s
  rw [he, h] at hp
  rw [poll, performEdge_of_next [.rdstat] ((clockEdge_rdstat due s).trans (congrArg _ he)) (if_pos hp)]
  rfl

/-- A turn after which `POLL` goes on: the block was busy before it. -/
theorem poll_cons_busy {s : State} {r : Performed} (due : Bool) (dues : List Bool) (h : s.busy = true)
    (hr : poll dues (enginePhase true due (s.respond s.status)) = .next r) :
    poll (due :: dues) s = .next (r.after [.rdstat]) := by
  have hp := pollEnds_after_rdstat s.busy due s
  rw [h] at hp
  refine performEdge_of_next [.rdstat] (clockEdge_rdstat due s) ?_
  rw [h]
  exact (if_neg (by rw [hp]; decide)).trans hr

/-- A command of a sequence that gives a next state is followed by the rest. -/
theorem performAll_command {i : Instr} {s t : State} {rest : List Action} {dues : List Bool} {r : Performed}
    (he : clockEdge (Edge.presenting i false) s = .next t) (hr : performAll rest dues t = .next r) :
    performAll (.command i :: rest) dues s = .next (r.after [i]) := by
  simp [performAll, Action.perform, performEdge, he, Performed.after, hr]

/-- A loop of a sequence that ends is followed by the rest. -/
theorem performAll_poll {s : State} {rest : List Action} {dues : List Bool} {p r : Performed}
    (hp : poll dues s = .next p) (he : p.ended = true) (hr : performAll rest p.dues p.state = .next r) :
    performAll (.poll :: rest) dues s = .next (r.after p.commands) := by
  simp [performAll, Action.perform, hp, he, hr]

end Sys2Proof.Machine
end

