-- ==== Sys2Proof/Laws/Run.lean ====
section
/-! SUPPORT. Runs of several steps: that they are the host interface's runs, and how a run splits. -/
namespace Sys2Proof.Machine

@[simp] theorem run_zero (s : State) : run 0 s = .next s := rfl

/-- A run whose first step gives a next state goes on from it. -/
theorem run_succ {s t : State} (k : Nat) (h : step s = .next t) : run (k + 1) s = run k t := by
  simp only [run, h]

/-- A run of any machine behind the host's interface whose first step gives a next state goes on from it. -/
theorem core_run_succ_next (M : Host.Core) (k : Nat) {s t : M.State} (h : M.step s = .next t) :
    M.run (k + 1) s = M.run k t := by
  simp only [Host.Core.run, h]

theorem core_run_succ_refused (M : Host.Core) (k : Nat) {s : M.State} {r : M.Refusal} (h : M.step s = .refused r) :
    M.run (k + 1) s = .refused r := by
  simp only [Host.Core.run, h]

/-- `run` is what the host's interface calls a run of this machine. -/
theorem run_eq_core (k : Nat) (s : State) : run k s = Host.Core.run Sys2Proof.core k s := by
  induction k generalizing s with
  | zero => rfl
  | succ k ih =>
    cases hs : step s with
    | next t =>
      rw [run_succ k hs]
      exact (ih t).trans (core_run_succ_next Sys2Proof.core k hs).symm
    | fault r => exact nomatch r
    | refused r =>
      have h : run (k + 1) s = .refused r := by simp only [run, hs]
      exact h.trans (core_run_succ_refused Sys2Proof.core k hs).symm

/-- A run may be cut in two. -/
theorem run_add {s t : State} {j : Nat} (k : Nat) (h : run j s = .next t) : run (j + k) s = run k t := by
  induction j generalizing s with
  | zero =>
    cases Host.Outcome.next.inj ((run_zero s).symm.trans h)
    rw [Nat.zero_add]
  | succ j ih =>
    rw [Nat.succ_add]
    simp only [run] at h ⊢
    cases hs : step s with
    | next u =>
      simp only [hs] at h ⊢
      exact ih h
    | fault r => exact nomatch r
    | refused r => simp [hs] at h

end Sys2Proof.Machine
end

