-- ==== Sys2Proof/Tests/Slice0.lean ====
section
/-! SUPPORT. The model's own tests. Expected values are those of 30_encoding.md and 95_test_vectors.md, and each test names the
row it takes them from. The witnesses at the end show that the statements' hypotheses can be met. -/
namespace Sys2Proof.Tests

open Sys2Proof.Machine

/-- A state as 95_test_vectors.md section 2.5 writes one, with the buffers' bytes in place of their lengths. -/
def st (key ctr : Bytes) (code : Nat) (busy done : Bool) (err : Nat) : State :=
  { State.reset with key, ctr, code := BitVec.ofNat 20 code, busy, done, err := BitVec.ofNat 5 err }

/-- A state at which the given edges come next. -/
def st.at (s : State) (es : List Edge) : State := { s with inputs := es }

/-- The test key of 95_test_vectors.md: the ASCII bytes of `12345678901234567890`. -/
def keyK : Bytes :=
  [0x31#8, 0x32#8, 0x33#8, 0x34#8, 0x35#8, 0x36#8, 0x37#8, 0x38#8, 0x39#8, 0x30#8,
   0x31#8, 0x32#8, 0x33#8, 0x34#8, 0x35#8, 0x36#8, 0x37#8, 0x38#8, 0x39#8, 0x30#8]

/-- Eight zero bytes. -/
def zeros8 : Bytes := [0#8, 0#8, 0#8, 0#8, 0#8, 0#8, 0#8, 0#8]

/-- A running computation on the test key and counter 59 (the state of EC1). -/
def busyK : State := st keyK (be8 59#64) 0 true false 0x00

/-- A digest with the given bytes where it has them. -/
def digestOf (bytes : Bytes) : Digest := Vector.ofFn fun i => bytes.getD i.val 0#8

/-- The next state of an outcome, where it is one; states compare, outcomes need not. -/
def nextOf {α : Type} : Host.Outcome α Fault Refusal → Option α
  | .next s => some s
  | .fault _ => none
  | .refused _ => none

/-- The state after a command. -/
def afterExec (i : Instr) (s : State) : Option State := nextOf (exec i s)

/-- The state after a host step. -/
def afterWord (w : CmdWord) (s : State) : Option State := nextOf (hostStep w s)

/-- The state after an edge. -/
def afterStep (s : State) : Option State := nextOf (step s)

/-- The system after one instance's step. -/
def afterInstance (k : Nat) (sys : List State) : Option (List State) := nextOf (stepInstance k sys)

/-! Well-formedness: an ill-formed term for each check (30_encoding.md R46, R47, R53). -/

theorem test_wf_zero_format_takes_no_operand :
    (Source.mk .clr (some 0)).wellFormed = false ∧ (Source.mk .rdstat (some 0)).wellFormed = false ∧
      (Source.mk .rdcode (some 1)).wellFormed = false := by decide

theorem test_wf_byte_format_needs_its_operand :
    (Source.mk .keyb none).wellFormed = false ∧ (Source.mk .ctrb none).wellFormed = false := by decide

theorem test_wf_byte_operand_range :
    (Source.mk .keyb (some 256)).wellFormed = false ∧ (Source.mk .ctrb (some 256)).wellFormed = false ∧
      (Source.mk .keyb (some 255)).wellFormed = true ∧ (Source.mk .ctrb (some 0)).wellFormed = true := by decide

theorem test_wf_length_operand :
    (Source.mk .go none).wellFormed = false ∧ (Source.mk .go (some 4096)).wellFormed = false ∧
      (Source.mk .go (some 4095)).wellFormed = true := by decide

theorem test_wf_every_command_is_well_formed :
    (Instr.keyb 255#8).wellFormed = true ∧ (Instr.go 4095#12).wellFormed = true ∧ Instr.clr.wellFormed = true := by decide

/-! Decoding: words written out from 30_encoding.md R46, R48, R49. -/

theorem test_decode_clr : decode 0b0001000000000000#16 = .command .clr := by decide
theorem test_decode_keyb : decode 0b0010000000110001#16 = .command (.keyb 0x31#8) := by decide
theorem test_decode_keyb_bounds :
    decode 0x2000#16 = .command (.keyb 0#8) ∧ decode 0x20FF#16 = .command (.keyb 0xFF#8) := by decide
theorem test_decode_ctrb : decode 0b0011000000111011#16 = .command (.ctrb 0x3B#8) := by decide
theorem test_decode_go : decode 0b0100000000010100#16 = .command (.go 20#12) := by decide
theorem test_decode_go_bounds :
    decode 0x4000#16 = .command (.go 0#12) ∧ decode 0x4FFF#16 = .command (.go 4095#12) := by decide
theorem test_decode_rdstat : decode 0b0101000000000000#16 = .command .rdstat := by decide
theorem test_decode_rdcode : decode 0b0110000000000000#16 = .command .rdcode := by decide

/-- The words of section 2.5 that are illegal. -/
theorem test_illegal_words :
    [0x0000#16, 0x0001#16, 0x0FFF#16, 0x1001#16, 0x1F00#16, 0x2100#16, 0x2F55#16, 0x3100#16, 0x5001#16, 0x5FFF#16,
      0x6800#16, 0x7000#16, 0x8000#16, 0xA5A5#16, 0xF000#16, 0xFFFF#16].all (fun w => (decode w).command?.isNone) = true := by decide

theorem test_encode :
    encode .clr = 0x1000#16 ∧ encode (.keyb 0x31#8) = 0x2031#16 ∧ encode (.ctrb 0x3B#8) = 0x303B#16 ∧
      encode (.go 20#12) = 0x4014#16 ∧ encode .rdstat = 0x5000#16 ∧ encode .rdcode = 0x6000#16 := by decide

theorem test_decodeTableWord :
    decodeTableWord 16 0x1000 = some .clr ∧ decodeTableWord 16 0x4014 = some (.go 20#12) ∧
      decodeTableWord 16 0x1001 = none ∧ decodeTableWord 32 0x1000 = none := by decide

/-! Listings (30_encoding.md R53, R54; the lines of 95_test_vectors.md section 3). -/

theorem test_print :
    printCommand (.keyb 0x3B#8) = "KEYB 0x3B".toList ∧ printCommand (.go 20#12) = "GO 20".toList ∧
      printCommand (.go 0#12) = "GO 0".toList ∧ printCommand .rdstat = "RDSTAT".toList := by decide

theorem test_assemble :
    assembleLine "KEYB 0x55        ; 2055   busy".toList = .line (.command (.keyb 0x55#8)) ∧
      assembleLine "GO 20".toList = .line (.command (.go 20#12)) ∧
      assembleLine "@COMPLETE".toList = .line .completeStep ∧ assembleLine "@RESET ; start".toList = .line .resetStep ∧
      assembleLine "; only a comment".toList = .line .blank := by decide

theorem test_assembly_errors :
    assembleLine "KEYB 256".toList = .error .outOfRange ∧ assembleLine "GO 4096".toList = .error .outOfRange ∧
      assembleLine "CLR 0".toList = .error .operandCount ∧ assembleLine "KEYB".toList = .error .operandCount ∧
      assembleLine "GO 0x".toList = .error .notANumber ∧ assembleLine "NOP".toList = .error .unknownMnemonic := by decide

/-- P6: `LDCTR 20000000000` is `3000 3000 3000 3004 30A8 3017 30C8 3000`. -/
theorem test_ldctr :
    (ldctr 20000000000#64).map encode =
      [0x3000#16, 0x3000#16, 0x3000#16, 0x3004#16, 0x30A8#16, 0x3017#16, 0x30C8#16, 0x3000#16] := by decide

/-- P1: the words of `LDKEYS`. -/
theorem test_ldkeys :
    (ldkeys "1290".toList).map (List.map encode) = some [0x2031#16, 0x2032#16, 0x2039#16, 0x2030#16] ∧
      ldkeys "é".toList = none := by decide

/-- P1 (R54): `LDKEYS` and `LDCTR` lines. -/
theorem test_read_load_lines :
    assembleLine "LDKEYS \"12345678901234567890\"            ; 2031 2032 2033".toList =
        .line (.pseudo (.ldkeys "12345678901234567890".toList)) ∧
      (Pseudo.ldkeys "12345678901234567890".toList).expand = some (keyK.map fun b => .command (.keyb b)) ∧
      assembleLine "LDCTR 59      ; 3000 3000 3000 3000 3000 3000 3000 303B".toList = .line (.pseudo (.ldctr 59#64)) := by
  decide +kernel

/-- P4 (R54): a `LDKEY` line with an elision, and a hexadecimal counter. -/
theorem test_read_elided_line :
    assembleLine "LDKEY 0x00 0x01 ... 0x7F   ; 2000 2001".toList =
        .line (.pseudo (.ldkey ((List.range 128).map (BitVec.ofNat 8)))) ∧
      assembleLine "LDCTR 0x0102030405060708   ; 3001".toList = .line (.pseudo (.ldctr 0x0102030405060708#64)) ∧
      assembleLine "LDKEY".toList = .line (.pseudo (.ldkey [])) := by decide +kernel

/-- P6 (R54): the `HOTP` line, `K` named as that file names it or written out, and `POLL`. -/
theorem test_read_hotp_line :
    readLine [("K".toList, keyK)] "HOTP K, 20000000000".toList = .line (.pseudo (.hotp keyK 20000000000#64)) ∧
      assembleLine "HOTP \"12345678901234567890\", 20000000000".toList = .line (.pseudo (.hotp keyK 20000000000#64)) ∧
      assembleLine "POLL      ; 5000 -> 0x00148001".toList = .line (.pseudo .poll) := by decide +kernel

/-- P6 (R54): the expansion of `HOTP K, 20000000000`, in its own lines. -/
theorem test_expand_hotp :
    (Pseudo.hotp keyK 20000000000#64).expand =
      some ([.command .clr] ++ ((keyK.map .keyb).map .command) ++ ((ldctr 20000000000#64).map .command) ++
        [.command (.go 20#12), .poll, .command .rdcode]) := by decide +kernel

/-- A semicolon inside a text starts no comment, and a comma inside one separates no words. -/
theorem test_read_quoted_text :
    assembleLine "LDKEYS \"a; ,b\" ; text".toList = .line (.pseudo (.ldkeys "a; ,b".toList)) := by decide +kernel

/-- P2: `CTRB 0x00  (x7)` is seven commands. -/
theorem test_read_repeated_line :
    assembleLine "CTRB 0x00  (x7)  ; 3000".toList = .line (.times 7 (.command (.ctrb 0#8))) ∧
      (Line.times 7 (.command (.ctrb 0#8))).actions = some (List.replicate 7 (.command (.ctrb 0#8))) := by decide +kernel

/-- Operands of pseudo-instructions out of range, missing or of the wrong form (R53, R54). -/
theorem test_pseudo_errors :
    assembleLine "LDKEY 256".toList = .error .outOfRange ∧
      assembleLine "LDCTR 0x10000000000000000".toList = .error .outOfRange ∧
      assembleLine "LDCTR".toList = .error .operandCount ∧ assembleLine "POLL 1".toList = .error .operandCount ∧
      assembleLine "HOTP Q, 1".toList = .error .notAKey ∧ assembleLine "LDKEYS \"é\"".toList = .error .notAscii ∧
      assembleLine "LDKEY 5 ... 5".toList = .error .badElision := by decide +kernel

/-- R53: a key length out of the range of `GO`'s operand is an error and not a truncation. -/
theorem test_hotp_length_bound (c : BitVec 64) :
    hotpTransaction (List.replicate 4096 0#8) c = none ∧ (hotpTransaction (List.replicate 4095 0#8) c).isSome = true :=
  ⟨if_neg (by rw [List.length_replicate]; decide),
    by rw [hotpTransaction, if_pos (by rw [List.length_replicate]; decide)]; rfl⟩

/-- P6: `POLL` repeats while `BUSY = 1` and stops at the response `0x00000002`. -/
theorem test_poll_stops_at_idle :
    (nextOf (poll [false, true, false, false] busyK)).map (fun p => (p.commands, p.dues, p.ended, p.state.rsp)) =
      some ([.rdstat, .rdstat, .rdstat], [false], true, 0x00000002#32) := by decide +kernel

/-- P1, P6: while busy the response is `0x00148001` and the loop has not ended. -/
theorem test_poll_goes_on_while_busy :
    (nextOf (poll [false, false] busyK)).map (fun p => (p.commands, p.ended, p.state.rsp)) =
      some ([.rdstat, .rdstat], false, 0x00148001#32) := by decide +kernel

/-! The commands on one state each (95_test_vectors.md section 2.5). -/

/-- A running computation with every flag set is cleared (the `CLR` rows of section 2.5, R61). -/
theorem test_clr_while_busy : afterExec .clr (st keyK zeros8 0 true false 0x1F) = some State.reset := by decide

theorem test_clr_removes_a_code : afterExec .clr (st [] [] 83773 false true 0x00) = some State.reset := by decide

/-- KB1, KB2. -/
theorem test_keyb_appends :
    afterExec (.keyb 0xFF#8) State.reset = some (st [0xFF#8] [] 0 false false 0x00) ∧
      afterExec (.keyb 0x00#8) (st [0xFF#8] [] 0 false false 0x00) = some (st [0xFF#8, 0x00#8] [] 0 false false 0x00) := by
  decide

/-- KB4, KB6. -/
theorem test_keyb_busy_and_code :
    afterExec (.keyb 0x55#8) (st keyK zeros8 0 true false 0x00) = some (st keyK zeros8 0 true false 0x02) ∧
      afterExec (.keyb 0x31#8) (st [] [] 83773 false true 0x00) = some (st [0x31#8] [] 83773 false true 0x00) := by decide

/-- KB3, at the model's own capacity. -/
theorem test_keyb_overflow (s : State) (hb : s.busy = false) (hk : s.key.length = Config.keyMax) :
    exec (.keyb 0x55#8) s = .next (s.raise .keyOvf).noResponse := by
  simp only [exec, execKeyb, unlessBusy_of_idle hb, hk, if_true, reject_eq]

/-- CB1, CB2. -/
theorem test_ctrb_appends :
    afterExec (.ctrb 0x01#8) State.reset = some (st [] [0x01#8] 0 false false 0x00) ∧
      afterExec (.ctrb 0x3B#8) (st [] (be8 59#64).dropLast 0 false false 0x00) = some (st [] (be8 59#64) 0 false false 0x00) := by
  decide

/-- CB3, CB4. -/
theorem test_ctrb_refused :
    afterExec (.ctrb 0xAA#8) (st [] zeros8 0 false false 0x00) = some (st [] zeros8 0 false false 0x08) ∧
      afterExec (.ctrb 0xAA#8) (st keyK zeros8 0 true false 0x00) = some (st keyK zeros8 0 true false 0x02) := by decide

/-- GO1, GO2, GO8. -/
theorem test_go_accepted :
    afterExec (.go 20#12) (st keyK zeros8 0 false false 0x00) = some (st keyK zeros8 0 true false 0x00) ∧
      afterExec (.go 0#12) (st [] zeros8 0 false false 0x00) = some (st [] zeros8 0 true false 0x00) ∧
      afterExec (.go 20#12) (st keyK zeros8 755224 false true 0x00) = some (st keyK zeros8 0 true false 0x00) := by decide

/-- GO3, GO4, GO5, GO7, GO9, GO6. -/
theorem test_go_refused :
    afterExec (.go 19#12) (st keyK zeros8 0 false false 0x00) = some (st keyK zeros8 0 false false 0x10) ∧
      afterExec (.go 20#12) (st keyK zeros8.tail 0 false false 0x00) = some (st keyK zeros8.tail 0 false false 0x10) ∧
      afterExec (.go 20#12) (st keyK zeros8 0 false false 0x01) = some (st keyK zeros8 0 false false 0x11) ∧
      afterExec (.go 4095#12) State.reset = some (st [] [] 0 false false 0x10) ∧
      afterExec (.go 20#12) (st [] zeros8 755224 false true 0x00) = some (st [] zeros8 0 false false 0x10) ∧
      afterExec (.go 20#12) (st keyK zeros8 0 true false 0x00) = some (st keyK zeros8 0 true false 0x02) := by decide

/-- ST2, ST3, ST5, ST6. -/
theorem test_status :
    (st keyK zeros8 0 true false 0x00).status = 0x00148001#32 ∧ (st [] [] 83773 false true 0x00).status = 0x00000002#32 ∧
      (st [] zeros8 0 false false 0x13).status = 0x00008130#32 ∧
      (st [1#8, 2#8, 3#8, 4#8, 5#8] [1#8, 2#8, 3#8] 0 false false 0x1F).status = 0x000531F0#32 := by decide +kernel

/-- ST4. -/
theorem test_rdstat :
    afterExec .rdstat (st (List.replicate 128 0#8) zeros8 0 false false 0x1C) =
      some ((st (List.replicate 128 0#8) zeros8 0 false false 0x1C).respond 0x008081C0#32) := by decide +kernel

/-- RC2, RC4, RC5, RC6. -/
theorem test_codeword :
    (st keyK zeros8 0 true false 0x00).codeword = 0x00000000#32 ∧ (st [] [] 0 false true 0x00).codeword = 0x80000000#32 ∧
      (st [] [] 999999 false true 0x00).codeword = 0x800F423F#32 ∧
      (st [] [] 328482 false true 0x03).codeword = 0x80050322#32 := by decide +kernel

/-- RC3. -/
theorem test_rdcode :
    afterExec .rdcode (st [] [] 83773 false true 0x00) = some ((st [] [] 83773 false true 0x00).respond 0x8001473D#32) := by
  decide +kernel

/-- KB8, CB5, ST7, RC7 and the illegal word while busy. -/
theorem test_illegal_word :
    afterWord 0x2131#16 State.reset = some (st [] [] 0 false false 0x01) ∧
      afterWord 0x3F00#16 State.reset = some (st [] [] 0 false false 0x01) ∧
      afterWord 0x5001#16 State.reset = some (st [] [] 0 false false 0x01) ∧
      afterWord 0x6800#16 State.reset = some (st [] [] 0 false false 0x01) ∧
      afterWord 0x0000#16 (st keyK zeros8 0 true false 0x00) = some (st keyK zeros8 0 true false 0x01) := by decide

/-! Edges, reset and the placing of an instruction. -/

/-- The next step runs the word placed. -/
theorem test_withFetchWord :
    afterStep (State.reset.withFetchWord 16 0x2031) = some (st [0x31#8] [] 0 false false 0x00) ∧
      afterStep (State.reset.withFetchWord 16 0x0000) = some (st [] [] 0 false false 0x01) := by decide

/-- RS1, with a command and a completion at the same edge (60_exceptions.md R135). -/
theorem test_reset_edge : afterStep (st.at (st keyK zeros8 0 true false 0x1F) [⟨true, true, 0x2031#16, true⟩]) = some State.reset := by
  decide

/-- 60_exceptions.md R135: `GO` at the edge at which the computation completes raises `E_BUSY`; the completion happens. -/
theorem test_go_at_the_completion_edge :
    afterStep (st.at busyK [⟨false, true, 0x4014#16, true⟩]) =
      some (st [] [] 83773 false true 0x02) := by decide +kernel

/-- 60_exceptions.md R135: `CLR` at that edge wins. -/
theorem test_clr_at_the_completion_edge : afterStep (st.at busyK [⟨false, true, 0x1000#16, true⟩]) = some State.reset := by decide

/-- 70_reset_and_hazards.md R160: with `cmd_valid = 0` the word is ignored and the port returns to zero. -/
theorem test_idle_edge :
    afterStep (st.at ((st [] [] 5 false true 0x00).respond 7#32) [⟨false, false, 0x1000#16, false⟩]) =
      some (st [] [] 5 false true 0x00) := by decide

/-- EC3: the engine acts only while busy. -/
theorem test_engine_idle : afterStep (st [] [] 5 false true 0x00) = some (st [] [] 5 false true 0x00) := by decide

/-- Instance 1 takes a step, instance 0 does not (60_exceptions.md R140). -/
theorem test_instances :
    afterInstance 1 [State.reset, State.reset.withFetchWord 16 0x0000] =
      some [State.reset, st [] [] 0 false false 0x01] := by decide

/-! The datapath. -/

/-- SV1. -/
theorem test_sha1_empty : fromBE (sha1 []).toList = 0xda39a3ee5e6b4b0d3255bfef95601890afd80709 := by decide +kernel

/-- SV2. -/
theorem test_sha1_abc : fromBE (sha1 [0x61#8, 0x62#8, 0x63#8]).toList = 0xa9993e364706816aba3e25717850c26c9cd0d89d := by
  decide +kernel

/-- SV4, SV5: the two sides of the boundary of one block. -/
theorem test_sha1_55_56 :
    fromBE (sha1 (List.replicate 55 0x61#8)).toList = 0xc1c8bbdc22796e28c0e15163d20899b65621d65a ∧
      fromBE (sha1 (List.replicate 56 0x61#8)).toList = 0xc2db330f6083854c99d4b5bfb6e8f29f201be699 := by decide +kernel

/-- 95_test_vectors.md, the schedule of SV2's block: `W[16]` and `W[79]`. -/
theorem test_schedule :
    (schedule (pad [0x61#8, 0x62#8, 0x63#8])).getD 16 0#32 = 0xC2C4C700#32 ∧
      (schedule (pad [0x61#8, 0x62#8, 0x63#8])).getD 79 0#32 = 0x822E0879#32 := by decide +kernel

/-- SRC6: the digest. -/
theorem test_hmac_src6 : fromBE (hmacSha1 keyK (be8 59#64)).toList = 0x440b7e92c5673dc19c914eaf311e853dcdc4caac := by
  decide +kernel

/-- HM18: a key of 65 bytes is hashed first. -/
theorem test_hmac_long_key :
    fromBE (hmacSha1 ((List.range 65).map (BitVec.ofNat 8)) (be8 1#64)).toList =
      0x7f7bb6b53d6f4de3e5d25fddfe356529487057dc := by decide +kernel

/-- EC1, in architectural state. -/
theorem test_engine_complete : busyK.engineComplete = st [] [] 83773 false true 0x00 := by decide +kernel

/-- EC2: flags set while busy survive. -/
theorem test_engine_complete_keeps_flags :
    (st [] zeros8 0 true false 0x03).engineComplete = st [] [] 328482 false true 0x03 := by decide +kernel

/-- SRC7 (masked top bit), SRC11 (a counter above 2^32). -/
theorem test_hotp_src7_src11 : hotp keyK 1111111109#64 = 510233#20 ∧ hotp keyK 20000000000#64 = 468884#20 := by
  decide +kernel

/-- HM11 and HM12, the largest and the smallest code. -/
theorem test_hotp_bounds : hotp keyK 691#64 = 999999#20 ∧ hotp keyK 349495#64 = 0#20 := by decide +kernel

/-- SRC1, SRC2, SRC3: the source's windows at given offsets. -/
theorem test_window :
    dtWindow (digestOf [0#8, 0#8, 0#8, 1#8, 2#8, 3#8, 4#8]) 3#4 = 16909060#31 ∧
      dtWindow (digestOf (List.replicate 15 0#8 ++ [13#8, 255#8, 30#8, 10#8, 0x77#8])) 15#4 = 234823178#31 ∧
      dtWindow (digestOf [32#8, 16#8, 8#8, 4#8]) 0#4 = 537921540#31 := by decide +kernel

/-- SRC4, SRC5, DT4, DT6. -/
theorem test_offset_and_mask :
    dtOffset (digestOf (List.replicate 19 0#8 ++ [0x0A#8])) = 10#4 ∧
      dtOffset (digestOf (List.replicate 19 0#8 ++ [0x11#8])) = 1#4 ∧
      dtWindow (digestOf (List.replicate 20 0xFF#8)) 15#4 = 0x7FFFFFFF#31 ∧
      dtWindow (digestOf [0x80#8]) 0#4 = 0#31 := by decide +kernel

/-- 95_test_vectors.md, `v` and `code` of DT4, SRC6, HM11, HM12, HM15. -/
theorem test_reducer :
    mod1M 2147483647#31 = 483647#20 ∧ mod1M 824083773#31 = 83773#20 ∧ mod1M 1082999999#31 = 999999#20 ∧
      mod1M 378000000#31 = 0#20 ∧ mod1M 2147139820#31 = 139820#20 := by decide

/-! Witnesses: for each statement with hypotheses a concrete state and operands that meet all of them, and one for each
clause at a boundary of its range. -/

/-- A state with a code in it. -/
def doneS : State := st [] [] 999999 false true 0x00

/-- A computation on the empty key. -/
def busyS : State := st [] zeros8 0 true false 0x00

/-- The edge of a command with a completion due. -/
def dueWith (w : CmdWord) : Edge := ⟨false, true, w, true⟩

theorem witness_DecodeAndEncodeAreInverse :
    (Instr.go 4095#12).wellFormed = true ∧ decode 0x1000#16 = .command .clr ∧ decode 0x20FF#16 = .command (.keyb 0xFF#8) ∧
      decode 0x3000#16 = .command (.ctrb 0x00#8) ∧ decode 0x4FFF#16 = .command (.go 4095#12) ∧
      decode 0x5000#16 = .command .rdstat ∧ decode 0x6000#16 = .command .rdcode := by decide

theorem witness_OpcodeMapSelectsWhatDecodes :
    selects .keyb 0x20FF#16 = true ∧ selects .keyb 0x2100#16 = false ∧ selects .go 0x4FFF#16 = true ∧
      selects .clr 0x1001#16 = false := by decide

theorem witness_IllegalWordsAreExactlyTheListed :
    decode 0x0FFF#16 = .illegal .unassignedOpcode ∧ decode 0x7000#16 = .illegal .unassignedOpcode ∧
      decode 0x1FFF#16 = .illegal .mustBeZero ∧ decode 0x2100#16 = .illegal .mustBeZero ∧
      decode 0x3F00#16 = .illegal .mustBeZero ∧ decode 0x6FFF#16 = .illegal .mustBeZero ∧
      decode 0x6000#16 = .command .rdcode := by decide

theorem witness_PrintedCommandReadsBack :
    assembleLine (printCommand (.go 4095#12) ++ ' ' :: ';' :: "CLR".toList) = .line (.command (.go 4095#12)) := by decide

theorem witness_CounterBytesAreBigEndian :
    zeros8.length = 8 ∧ (List.replicate 8 0xFF#8).length = 8 ∧
      BitVec.ofNat 64 (fromBE (List.replicate 8 0xFF#8)) = BitVec.allOnes 64 := by decide

/-- Each clause's hypothesis, at the boundary lengths 4095 and 4096. -/
theorem witness_PseudoInstructionsExpandAsStated :
    (∀ ch ∈ "1290".toList, ch.toNat < 128) ∧ (List.replicate 4095 0#8 : Bytes).length = 4095 ∧
      (List.replicate 4096 0#8 : Bytes).length = 4096 :=
  ⟨by simp, List.length_replicate, List.length_replicate⟩

/-- A loop that ends, one that goes on at its first turn, and one that does not end. -/
theorem witness_PollRepeatsUntilIdle :
    busyK.busy = true ∧ doneS.busy = false ∧ [true, false] ≠ ([] : List Bool) ∧
      ([true, false][0]? = some true ∧ 0 + 1 < [true, false].length) ∧
      (nextOf (poll [true, false] busyK)).map (fun p => (p.commands.length, p.ended)) = some (2, true) ∧
      (nextOf (poll [false] doneS)).map (fun p => (p.commands.length, p.ended)) = some (1, true) ∧
      (nextOf (poll [true] busyK)).map (fun p => (p.commands.length, p.ended)) = some (1, false) := by decide +kernel

theorem witness_HotpPseudoInstructionReturnsTheCode :
    keyK.length ≤ Config.keyMax ∧ ∃ i : Nat, [false, true, false][i]? = some true ∧ i + 1 < [false, true, false].length :=
  ⟨keyMax_range.1, 1, by decide⟩

theorem witness_ResetEdgeWinsOverEverything :
    (st.at busyS [⟨true, true, 0x2031#16, true⟩]).inputs = ⟨true, true, 0x2031#16, true⟩ :: [] ∧
      (Edge.mk true true 0x2031#16 true).rst = true := by decide

/-- The state with the longest key, a running computation and every flag set. For `StatusHasTheStatedFields` too. -/
theorem witness_StateInv_full : StateInv (st (List.replicate Config.keyMax 0xFF#8) zeros8 0 true false 0x1F) where
  key_fits := by simp [st]
  ctr_fits := by decide
  not_both := by simp [st]
  no_code := fun _ => rfl
  code_range := by simp [st]
  busy_ctr := fun _ => rfl
  idle_port := fun _ => rfl

/-- A code in the block. For `CodewordHasTheStatedFields`. -/
theorem witness_StateInv_done : StateInv doneS where
  key_fits := by simp [doneS, st]
  ctr_fits := by decide
  not_both := by decide
  no_code := by decide
  code_range := by decide
  busy_ctr := by decide
  idle_port := fun _ => rfl

/-- The code 0 in the block. For the last clause of `CodewordHasTheStatedFields`. -/
theorem witness_StateInv_code_zero : StateInv (st [] [] 0 false true 0x00) where
  key_fits := by simp [st]
  ctr_fits := by decide
  not_both := by decide
  no_code := by decide
  code_range := by decide
  busy_ctr := by decide
  idle_port := fun _ => rfl

/-- A computation runs and completes at the step. -/
theorem witness_StepKeepsInvariant :
    StateInv (st (List.replicate Config.keyMax 0xFF#8) zeros8 0 true false 0x1F) ∧
      ∃ t, step (st (List.replicate Config.keyMax 0xFF#8) zeros8 0 true false 0x1F) = .next t ∧ t.done = true :=
  ⟨witness_StateInv_full, _, rfl, rfl⟩

/-- Eight counter bytes, `GO 0`, the completion, an illegal word, `RDCODE`, reset. For `EveryInterleavingIsSomeEdges` too. -/
theorem witness_InvariantAfterAnyAtomicRun : ∃ t, AtomicRun State.reset.resetStep t ∧ t = State.reset :=
  ⟨_, .step _ _ _ (.host _ _ 0x3000#16 rfl) <| .step _ _ _ (.host _ _ 0x3000#16 rfl) <|
    .step _ _ _ (.host _ _ 0x3000#16 rfl) <| .step _ _ _ (.host _ _ 0x3000#16 rfl) <|
    .step _ _ _ (.host _ _ 0x3000#16 rfl) <| .step _ _ _ (.host _ _ 0x3000#16 rfl) <|
    .step _ _ _ (.host _ _ 0x3000#16 rfl) <| .step _ _ _ (.host _ _ 0x3000#16 rfl) <|
    .step _ _ _ (.host _ _ 0x4000#16 rfl) <| .step _ _ _ (.engine _ rfl) <|
    .step _ _ _ (.host _ _ 0x0000#16 rfl) <| .step _ _ _ (.host _ _ 0x6000#16 rfl) <|
    .step _ _ _ (.reset _) <| .done _, rfl⟩

/-- An idle block with no code, a word other than `CLR`, a flag that is set, and a `GO` that starts. -/
theorem witness_ClrClearsEverything :
    (∃ t, hostStep 0x2031#16 (st [] [] 0 false false 0x01) = .next t ∧ decode 0x2031#16 ≠ .command .clr ∧
      (st [] [] 0 false false 0x01).flag .ill = true ∧ (st [] [] 0 false false 0x01).busy = false ∧
      (st [] [] 0 false false 0x01).done = false) ∧
    ∃ t, hostStep 0x4000#16 (st [] zeros8 0 false false 0x00) = .next t ∧ t.busy = true :=
  ⟨⟨_, rfl, by decide⟩, ⟨_, rfl, by decide⟩⟩

/-- The three clauses: busy, full, and with one byte of room left. -/
theorem witness_KeybAppendsOrRaises :
    busyS.busy = true ∧ (st (List.replicate Config.keyMax 0#8) [] 0 false false 0x00).key.length = Config.keyMax ∧
      (st (List.replicate (Config.keyMax - 1) 0#8) [] 0 false false 0x00).key.length ≠ Config.keyMax := by
  have := keyMax_range
  refine ⟨rfl, by simp [st], ?_⟩
  simp only [st, List.length_replicate]
  omega

theorem witness_CtrbAppendsOrRaises :
    busyS.busy = true ∧ (st [] zeros8 0 false false 0x00).ctr.length = 8 ∧
      (st [] zeros8.tail 0 false false 0x00).ctr.length ≠ 8 := by decide

/-- Busy; each of the three reasons alone; accepted at the longest length. -/
theorem witness_GoStartsOrRaises :
    busyS.busy = true ∧ (st [] zeros8 0 false false 0x01).err ≠ 0#5 ∧ (st [] zeros8.tail 0 false false 0x00).ctr.length ≠ 8 ∧
      (st [] zeros8 0 false false 0x00).key.length ≠ (1#12).toNat ∧
      ((st (List.replicate 4095 0#8) zeros8 0 false false 0x00).err = 0#5 ∧
        (st (List.replicate 4095 0#8) zeros8 0 false false 0x00).ctr.length = 8 ∧
        (st (List.replicate 4095 0#8) zeros8 0 false false 0x00).key.length = (4095#12).toNat) :=
  ⟨rfl, by decide, by decide, by decide, rfl, rfl, List.length_replicate⟩

theorem witness_IllegalWordSetsOnlyIll :
    decode 0xFFFF#16 = .illegal .unassignedOpcode ∧ decode 0x5001#16 = .illegal .mustBeZero := by decide

/-- An accepted `GO` with a completion due, which does not happen; a `KEYB` while busy with one due, which does. -/
theorem witness_StepRunsTheDecodedCommand :
    (∃ t, exec (.go 0#12) (st [] zeros8 0 false false 0x00) = .next t ∧ t.busy = true ∧
      (dueWith 0x4000#16).rst = false ∧ (dueWith 0x4000#16).cmdValid = true ∧
      decode (dueWith 0x4000#16).cmd = .command (.go 0#12) ∧ (Instr.go 0#12).wellFormed = true ∧
      afterStep (st.at (st [] zeros8 0 false false 0x00) [dueWith 0x4000#16]) = some t) ∧
    ∃ t, exec (.keyb 0x55#8) busyS = .next t ∧ t.busy = true ∧ decode (dueWith 0x2055#16).cmd = .command (.keyb 0x55#8) ∧
      (afterStep (st.at busyS [dueWith 0x2055#16])).map State.done = some true :=
  ⟨⟨_, rfl, by decide⟩, ⟨_, rfl, by decide⟩⟩

/-- Every command gives a next state, `GO` also while busy. -/
theorem witness_CommandsWriteOnlyTheirOwn :
    (∃ t, exec .clr busyS = .next t) ∧ (∃ t, exec (.keyb 0x55#8) State.reset = .next t ∧ t.key = [0x55#8]) ∧
      (∃ t, exec (.ctrb 0x55#8) State.reset = .next t ∧ t.ctr = [0x55#8]) ∧
      (∃ t, exec (.go 0#12) busyS = .next t ∧ t.flag .busy = true) ∧ (∃ t, exec .rdstat busyS = .next t) ∧
      ∃ t, exec .rdcode doneS = .next t :=
  ⟨⟨_, rfl⟩, ⟨_, rfl, by decide⟩, ⟨_, rfl, by decide⟩, ⟨_, rfl, by decide⟩, ⟨_, rfl⟩, ⟨_, rfl⟩⟩

/-- One word for each flag; `E_KEYOVF` is in `test_keyb_overflow`. -/
theorem witness_FlagsAreRaisedExactlyOnTheirConditions :
    (∃ t, hostStep 0x0000#16 busyS = .next t ∧ t.err = 0x01#5) ∧ (∃ t, hostStep 0x4000#16 busyS = .next t ∧ t.err = 0x02#5) ∧
      (∃ t, hostStep 0x3000#16 (st [] zeros8 0 false false 0x00) = .next t ∧ t.err = 0x08#5) ∧
      (∃ t, hostStep 0x4001#16 (st [] zeros8 0 false false 0x00) = .next t ∧ t.err = 0x10#5) ∧
      decode 0x4001#16 ≠ .command .clr :=
  ⟨⟨_, rfl, by decide⟩, ⟨_, rfl, by decide⟩, ⟨_, rfl, by decide⟩, ⟨_, rfl, by decide⟩, by decide⟩

/-- The clauses: busy, an illegal word, a full and an unfull counter, a refused and an accepted `GO`. -/
theorem witness_AtMostOneFlagPerCommand :
    (∃ t, hostStep 0x2055#16 busyS = .next t ∧ busyS.flag .busy = false ∧ t.flag .busy = true ∧ busyS.busy = true ∧
      decode 0x2055#16 = .command (.keyb 0x55#8)) ∧
    (∃ t, hostStep 0xFFFF#16 busyS = .next t ∧ decode 0xFFFF#16 = .illegal .unassignedOpcode) ∧
    (∃ t, hostStep 0x30AA#16 (st [] zeros8 0 false false 0x00) = .next t ∧ t.err = 0x08#5 ∧
      decode 0x30AA#16 = .command (.ctrb 0xAA#8)) ∧
    (∃ t, hostStep 0x30AA#16 State.reset = .next t ∧ t.err = 0x00#5) ∧
    (∃ t, hostStep 0x2055#16 State.reset = .next t ∧ t.err = 0x00#5) ∧
    (∃ t, hostStep 0x4001#16 (st [] zeros8 0 false false 0x00) = .next t ∧ t.err = 0x10#5 ∧
      decode 0x4001#16 = .command (.go 1#12)) ∧
    ∃ t, hostStep 0x4000#16 (st [] zeros8 0 false false 0x00) = .next t ∧ t.err = 0x00#5 :=
  ⟨⟨_, rfl, by decide⟩, ⟨_, rfl, by decide⟩, ⟨_, rfl, by decide⟩, ⟨_, rfl, by decide⟩, ⟨_, rfl, by decide⟩, ⟨_, rfl, by decide⟩,
    ⟨_, rfl, by decide⟩⟩

/-- Both clauses: an edge that completes a computation, and one that executes `CLR`. -/
theorem witness_FlagsAreStickyUntilCleared :
    (∃ t, step (st [] zeros8 0 true false 0x1F) = .next t ∧ (nextEdge (st [] zeros8 0 true false 0x1F)).clears = false ∧
      (st [] zeros8 0 true false 0x1F).flag .seq = true ∧ t.done = true) ∧
    ∃ t, step (st.at (st [] [] 0 false false 0x1F) [Edge.command 0x1000#16]) = .next t ∧
      (nextEdge (st.at (st [] [] 0 false false 0x1F) [Edge.command 0x1000#16])).clears = true :=
  ⟨⟨_, rfl, by decide⟩, ⟨_, rfl, by decide⟩⟩

/-- A full load and a `GO` that would match, with a flag set. -/
theorem witness_AnErrorBlocksEveryStartUntilCleared :
    ∃ t, run 2 (st.at (st [] zeros8 0 false false 0x01) [Edge.command 0x4000#16, Edge.quiet]) = .next t ∧ t.busy = false ∧
      (st.at (st [] zeros8 0 false false 0x01) [Edge.command 0x4000#16, Edge.quiet]).err ≠ 0#5 ∧
      (st.at (st [] zeros8 0 false false 0x01) [Edge.command 0x4000#16, Edge.quiet]).busy = false ∧
      [Edge.command 0x4000#16, Edge.quiet].all (fun e => !e.clears) = true := ⟨_, rfl, by decide⟩

/-- `DONE` is set; it stays; it goes with an accepted and with a refused `GO`, and with `CLR`. -/
theorem witness_DoneChangesOnlyAsStated :
    (∃ t, step busyS = .next t ∧ busyS.done = false ∧ t.done = true) ∧
      (∃ t, step doneS = .next t ∧ doneS.done = true ∧ t.done = true ∧ doneS.busy = false) ∧
      (∃ t, step (st.at doneS [Edge.command 0x4000#16]) = .next t ∧ t.done = false ∧ t.busy = false) ∧
      (∃ t, step (st.at (st [] zeros8 7 false true 0x00) [Edge.command 0x4000#16]) = .next t ∧ t.done = false ∧
        t.busy = true) ∧
      ∃ t, step (st.at doneS [Edge.command 0x1000#16]) = .next t ∧ t.done = false :=
  ⟨⟨_, rfl, rfl, rfl⟩, ⟨_, rfl, by decide⟩, ⟨_, rfl, by decide⟩, ⟨_, rfl, by decide⟩, ⟨_, rfl, by decide⟩⟩

/-- `BUSY` is set; it is cleared by a completion and by a reset; it stays. -/
theorem witness_BusyChangesOnlyAsStated :
    (∃ t, step (st.at (st [] zeros8 0 false false 0x00) [Edge.command 0x4000#16]) = .next t ∧ t.busy = true) ∧
      (∃ t, step busyS = .next t ∧ busyS.busy = true ∧ t.busy = false) ∧
      (∃ t, step (st.at busyS [Edge.reset]) = .next t ∧ t.busy = false) ∧
      ∃ t, step (st.at busyS [Edge.command 0x2055#16]) = .next t ∧ t.busy = true :=
  ⟨⟨_, rfl, by decide⟩, ⟨_, rfl, rfl, rfl⟩, ⟨_, rfl, by decide⟩, ⟨_, rfl, by decide⟩⟩

theorem witness_NoResultWithoutAStart :
    ∃ t, run 2 (st.at doneS [Edge.command 0x2031#16, Edge.quiet]) = .next t ∧ t.done = true ∧
      (st.at doneS [Edge.command 0x2031#16, Edge.quiet]).busy = false ∧
      [Edge.command 0x2031#16, Edge.quiet].all (fun e => !e.starts) = true := ⟨_, rfl, by decide⟩

theorem witness_EngineActsOnlyWhileBusy : doneS.busy = false := by decide

theorem witness_ResponsePortLastsOneCycle :
    (∃ t, step (st.at busyK [Edge.command 0x5000#16]) = .next t ∧ t.rspValid = true ∧ t.rsp = 0x00148001#32) ∧
      (∃ t, step (st.at doneS [Edge.command 0x6000#16]) = .next t ∧ t.rspValid = true ∧ t.rsp = 0x800F423F#32) ∧
      ∃ t, step (doneS.respond 0x800F423F#32) = .next t ∧ t.rspValid = false :=
  ⟨⟨_, rfl, by decide +kernel⟩, ⟨_, rfl, by decide +kernel⟩, ⟨_, rfl, by decide⟩⟩

/-- The edge executes the command it presents. -/
theorem executes_dueWith (w : CmdWord) (i : Instr) (s : State) (h : decode w = .command i) :
    (nextEdge (st.at s [dueWith w])).executes i :=
  ⟨rfl, congrArg some h⟩

theorem witness_CommandAtTheCompletionEdge :
    busyS.busy = true ∧ (nextEdge (st.at busyS [dueWith 0x4000#16])).due = true ∧
      (nextEdge (st.at busyS [dueWith 0x2055#16])).executes (.keyb 0x55#8) ∧
      (nextEdge (st.at busyS [dueWith 0x3055#16])).executes (.ctrb 0x55#8) ∧
      (nextEdge (st.at busyS [dueWith 0x4000#16])).executes (.go 0#12) ∧
      (nextEdge (st.at busyS [dueWith 0x1000#16])).executes .clr ∧
      (nextEdge (st.at busyS [dueWith 0x5000#16])).executes .rdstat ∧
      (nextEdge (st.at busyS [dueWith 0x6000#16])).executes .rdcode :=
  ⟨rfl, rfl, executes_dueWith _ _ _ (by decide), executes_dueWith _ _ _ (by decide), executes_dueWith _ _ _ (by decide),
    executes_dueWith _ _ _ (by decide), executes_dueWith _ _ _ (by decide), executes_dueWith _ _ _ (by decide)⟩

/-- A reset edge, a host step, a completion, and a host step with a completion after it. -/
theorem witness_ClockEdgesAreAtomicSteps :
    (∃ t, run 4 (st.at busyS [dueWith 0x2055#16, Edge.reset, Edge.command 0x2031#16, Edge.quiet]) = .next t ∧
      t.key = [0x31#8]) ∧
      (∃ t, step (st.at busyS [Edge.reset]) = .next t ∧ (nextEdge (st.at busyS [Edge.reset])).rst = true) ∧
      ∃ t, step (st.at busyS [dueWith 0x2055#16]) = .next t ∧ (nextEdge (st.at busyS [dueWith 0x2055#16])).rst = false ∧
        t.done = true :=
  ⟨⟨_, rfl, by decide⟩, ⟨_, rfl, rfl⟩, ⟨_, rfl, rfl, rfl⟩⟩

theorem witness_AStartedComputationCompletes :
    busyK.busy = true ∧ (st.at busyK [Edge.command 0x0000#16, Edge.command 0x5000#16]).inputs.all (fun e => !e.clears) = true ∧
      busyK.inputs.all (fun e => !e.clears) = true := by decide

/-- A load of the key `31` and the counter 59, with a read and an empty edge between. -/
def loadEdges : List Edge :=
  [Edge.command 0x2031#16, Edge.command 0x5000#16] ++ (List.replicate 7 (Edge.command 0x3000#16)) ++
    [Edge.quiet, Edge.command 0x303B#16]

/-- All of its hypotheses together, with a completion while waiting, and with none. -/
theorem witness_TransactionReturnsTheHotpCode :
    (keyBytes loadEdges).length = 1 ∧ ctrBytes loadEdges = be8 59#64 ∧ loadEdges.all Edge.loads = true ∧
      (keyBytes loadEdges).length ≤ Config.keyMax ∧
      (st [] [] 999999 false true 0x00).key = [] ∧ (st [] [] 999999 false true 0x00).ctr = [] ∧
      (st [] [] 999999 false true 0x00).err = 0#5 ∧ (st [] [] 999999 false true 0x00).busy = false ∧
      [Edge.command 0x5000#16, Edge.quiet].all (fun e => !e.clears && !e.starts) = true ∧
      (∃ e ∈ [Edge.command 0x5000#16, Edge.quiet], e.due = true) ∧
      [Edge.command 0x5000#16].all (fun e => !e.clears && !e.starts && !e.due) = true ∧
      (st.at (st [] [] 999999 false true 0x00)
        (loadEdges ++ [Edge.presenting (.go (BitVec.ofNat 12 (keyBytes loadEdges).length)) false] ++
          [Edge.command 0x5000#16, Edge.quiet] ++ [Edge.presenting .rdcode false] ++ [])).inputs =
        loadEdges ++ [Edge.presenting (.go (BitVec.ofNat 12 (keyBytes loadEdges).length)) false] ++
          [Edge.command 0x5000#16, Edge.quiet] ++ [Edge.presenting .rdcode false] ++ [] := by
  have h : (keyBytes loadEdges).length = 1 := by decide
  have := keyMax_range
  exact ⟨h, by decide, by decide, by omega, rfl, rfl, rfl, rfl, by decide, ⟨Edge.quiet, by decide, rfl⟩, by decide, rfl⟩

/-- Two states that differ in the key's content. -/
theorem witness_OnlyTheCodeDependsOnTheSecret :
    SameOutside (st [0x01#8] zeros8 0 true false 0x00) (st [0x02#8] zeros8 0 true false 0x00) ∧
      (∃ t, step (st [0x01#8] zeros8 0 true false 0x00) = .next t) ∧
      (∃ t, step (st [0x02#8] zeros8 0 true false 0x00) = .next t) ∧
      (st [0x01#8] zeros8 0 true false 0x00).code = (st [0x02#8] zeros8 0 true false 0x00).code :=
  ⟨⟨rfl, rfl, rfl, rfl, rfl, rfl, rfl⟩, ⟨_, rfl⟩, ⟨_, rfl⟩, rfl⟩

theorem witness_InstancesShareNothing :
    ∃ sys', stepInstance 1 [State.reset, busyS] = .next sys' ∧ sys'[0]? = some State.reset ∧
      [State.reset, busyS][1]? = some busyS := ⟨_, rfl, rfl, rfl⟩

/-- A running computation; and from an idle block a step that enables a completion, and one on a block with a code. -/
theorem witness_EngineCompleteWritesTheCode :
    (busyK.busy = true ∧ busyK.ctr.length = 8) ∧
      (∃ t, AtomicStep (st [] zeros8 0 false false 0x00) t ∧ t.busy = true) ∧
      ∃ t, AtomicStep doneS t ∧ doneS.busy = false ∧ t.done = true :=
  ⟨by decide, ⟨_, .host _ _ 0x4000#16 rfl, by decide⟩, ⟨_, .host _ _ 0x2031#16 rfl, by decide⟩⟩

theorem witness_PaddingIsAsStated :
    (List.replicate 64 0#8).length ≤ 64 + 4095 ∧ 64 ∣ 55 + 1 + 0 + 8 ∧ 64 ∣ 56 + 1 + 63 + 8 ∧
      (blocks (blockCount 0) (pad [])).length = 1 := by decide +kernel

theorem witness_ScheduleIsAsStated : (List.replicate 64 0x80#8 : Bytes).length = 64 := by decide

/-- The bounds of the four ranges of rounds. -/
theorem witness_RoundFunctionsBitByBit :
    roundConst 0 = 0x5A827999#32 ∧ roundConst 19 = 0x5A827999#32 ∧ roundConst 20 = 0x6ED9EBA1#32 ∧
      roundConst 39 = 0x6ED9EBA1#32 ∧ roundConst 40 = 0x8F1BBCDC#32 ∧ roundConst 59 = 0x8F1BBCDC#32 ∧
      roundConst 60 = 0xCA62C1D6#32 ∧ roundConst 79 = 0xCA62C1D6#32 ∧ (31 : Nat) < 32 := by decide

theorem witness_DigestBytesAreBigEndian : (4 : Nat) < 5 ∧ (3 : Nat) < 4 ∧ 4 * 4 + 3 = 19 := by decide

/-- A key of exactly the block length, one a byte longer, and the empty key padded to the whole block. -/
theorem witness_KeyPreparationIsAsStated :
    (List.replicate 64 0xAA#8 : Bytes).length = 64 ∧ 64 < (List.replicate 65 0xAA#8 : Bytes).length ∧
      ([] : Bytes).length + 64 ≤ 64 ∧ keyBlock (List.replicate 64 0xAA#8) = List.replicate 64 0xAA#8 := by decide

theorem witness_HmacIsFourCompressions : (be8 59#64).length = 8 := by decide

/-- Two digests that differ in the top bit of the first window byte. -/
theorem witness_WindowIsAsStated :
    (∀ j, j ≠ (15#4).toNat → (Vector.replicate 20 0#8 |>.set 15 0x80#8 : Digest).toList.getD j 0#8 =
      (Vector.replicate 20 0#8 : Digest).toList.getD j 0#8) ∧
      (Vector.replicate 20 0#8 |>.set 15 0x80#8 : Digest).toList.getD (15#4).toNat 0#8 =
        (Vector.replicate 20 0#8 : Digest).toList.getD (15#4).toNat 0#8 ^^^ 0x80#8 := by
  have all : ∀ k : Fin 20, k.val ≠ 15 → (Vector.replicate 20 0#8 |>.set 15 0x80#8 : Digest).toList.getD k.val 0#8 =
      (Vector.replicate 20 0#8 : Digest).toList.getD k.val 0#8 := by decide
  refine ⟨fun j hj => ?_, by decide⟩
  rcases Nat.lt_or_ge j 20 with h | h
  · exact all ⟨j, h⟩ hj
  · rw [List.getD_eq_default _ _ (by simpa using h), List.getD_eq_default _ _ (by simpa using h)]

theorem witness_ReducerIsTheRemainder :
    (999999 : Nat) ≤ 999999 ∧ 999999 % 1000000 = (2147483647#31 - 483648#31).toNat % 1000000 := by decide

/-- Both sides of each boundary. -/
theorem witness_ReducerCornerCases :
    (483647 : Nat) ≤ 999999 ∧ (483648 : Nat) ≤ 999999 ∧ mod1M 2147483647#31 = 483647#20 ∧
      2146999999 < (2147000000#31).toNat ∧ 2147000000 < (2147000001#31).toNat := by decide

end Sys2Proof.Tests
end

section
/-! The command rules as inversion lemmas: everything a host step that gives a next state can have done
(40_host_commands.md R60 to R67). -/
namespace Sys2Proof.Machine

/-- `CLR` in every state (40_host_commands.md R61). -/
theorem exec_clr (s : State) : exec .clr s = .next s.resetStep := rfl

/-- `RDSTAT` in every state (40_host_commands.md R65). -/
theorem exec_rdstat (s : State) : exec .rdstat s = .next (s.respond s.status) := rfl

/-- `RDCODE` in every state (40_host_commands.md R66). -/
theorem exec_rdcode (s : State) : exec .rdcode s = .next (s.respond s.codeword) := rfl

/-- Everything `KEYB b` can do (40_host_commands.md R62). -/
theorem exec_keyb_cases {b : Byte} {s t : State} (h : exec (.keyb b) s = .next t) :
    (s.busy = true ∧ t = (s.raise .busy).noResponse) ∨
      (s.busy = false ∧ s.key.length = Config.keyMax ∧ t = (s.raise .keyOvf).noResponse) ∨
      (s.busy = false ∧ s.key.length ≠ Config.keyMax ∧ t = (s.appendKey b).noResponse) := by
  obtain hbusy | ⟨hidle, hbody⟩ := unlessBusy_cases h
  · exact .inl hbusy
  · by_cases hfull : s.key.length = Config.keyMax
    · rw [if_pos hfull, reject_eq] at hbody
      exact .inr (.inl ⟨hidle, hfull, (Host.Outcome.next.inj hbody).symm⟩)
    · rw [if_neg hfull] at hbody
      exact .inr (.inr ⟨hidle, hfull, (Host.Outcome.next.inj hbody).symm⟩)

/-- Everything `CTRB b` can do (40_host_commands.md R63). -/
theorem exec_ctrb_cases {b : Byte} {s t : State} (h : exec (.ctrb b) s = .next t) :
    (s.busy = true ∧ t = (s.raise .busy).noResponse) ∨
      (s.busy = false ∧ s.ctr.length = 8 ∧ t = (s.raise .ctrOvf).noResponse) ∨
      (s.busy = false ∧ s.ctr.length ≠ 8 ∧ t = (s.appendCtr b).noResponse) := by
  obtain hbusy | ⟨hidle, hbody⟩ := unlessBusy_cases h
  · exact .inl hbusy
  · by_cases hfull : s.ctr.length = Config.ctrLen
    · rw [if_pos hfull, reject_eq] at hbody
      exact .inr (.inl ⟨hidle, hfull, (Host.Outcome.next.inj hbody).symm⟩)
    · rw [if_neg hfull] at hbody
      exact .inr (.inr ⟨hidle, hfull, (Host.Outcome.next.inj hbody).symm⟩)

/-- Everything `GO n` can do (40_host_commands.md R64). -/
theorem exec_go_cases {n : BitVec 12} {s t : State} (h : exec (.go n) s = .next t) :
    (s.busy = true ∧ t = (s.raise .busy).noResponse) ∨
      (s.busy = false ∧ seqError n s = true ∧ t = (s.clearResult.raise .seq).noResponse) ∨
      (s.busy = false ∧ s.err = 0#5 ∧ s.ctr.length = 8 ∧ s.key.length = n.toNat ∧
        t = s.clearResult.start.noResponse) := by
  obtain hbusy | ⟨hidle, hbody⟩ := unlessBusy_cases h
  · exact .inl hbusy
  · by_cases hseq : seqError n s = true
    · rw [if_pos hseq, reject_eq] at hbody
      exact .inr (.inl ⟨hidle, hseq, (Host.Outcome.next.inj hbody).symm⟩)
    · rw [if_neg hseq] at hbody
      simp only [seqError_iff, not_or, not_not] at hseq
      obtain ⟨herr, hctr, hkey⟩ := hseq
      exact .inr (.inr ⟨hidle, herr, hctr, hkey, (Host.Outcome.next.inj hbody).symm⟩)

/-- A host step executes the command its word decodes to, or is the illegal word (40_host_commands.md R60, R67). -/
theorem hostStep_cases {w : CmdWord} {s t : State} (h : hostStep w s = .next t) :
    (∃ why, decode w = .illegal why ∧ t = (s.raise .ill).noResponse) ∨
      (∃ i, decode w = .command i ∧ exec i s = .next t) := by
  unfold hostStep at h
  cases hd : decode w with
  | illegal why =>
    rw [hd] at h
    exact .inl ⟨why, rfl, (Host.Outcome.next.inj h).symm⟩
  | command i =>
    rw [hd] at h
    exact .inr ⟨i, rfl, h⟩

/-- A `GO` that starts a computation was given with no flag set (10_state.md R21 I5, 60_exceptions.md R131). -/
theorem err_zero_of_go_starts {n : BitVec 12} {s t : State} (h : exec (.go n) s = .next t)
    (hidle : s.busy = false) (hstart : t.busy = true) : s.err = 0#5 := by
  obtain ⟨hbusy, -⟩ | ⟨-, -, rfl⟩ | ⟨-, herr, -⟩ := exec_go_cases h
  · simp [hidle] at hbusy
  · simp [hidle] at hstart
  · exact herr

end Sys2Proof.Machine
end

section
/-! The invariant of 10_state.md R21: each state operation keeps it under the condition the command rules check, hence
every command, every atomic step and every run of them does. -/
namespace Sys2Proof.Machine

/-- The reduced value does not wrap in 20 bits (43_mod_reducer.md R112). -/
theorem mod1M_toNat (v : BitVec 31) : (mod1M v).toNat = v.toNat % 1000000 := by
  have hlt : v.toNat % 1000000 < 2 ^ 20 := by omega
  simpa [mod1M] using Nat.mod_eq_of_lt hlt

/-- Every code the engine produces is in range (43_mod_reducer.md R112, 10_state.md R21 I4). -/
theorem codeOf_le (k m : Bytes) : (codeOf k m).toNat ≤ 999999 := by
  unfold codeOf
  rw [mod1M_toNat]
  omega

/-- A reset establishes the invariant, whatever the state before it. -/
theorem stateInv_resetStep (s : State) : StateInv s.resetStep where
  key_fits := Nat.zero_le _
  ctr_fits := Nat.zero_le _
  not_both := by simp
  no_code := fun _ => rfl
  code_range := by simp
  busy_ctr := by simp
  idle_port := fun _ => rfl

theorem StateInv.noResponse {s : State} (h : StateInv s) : StateInv s.noResponse :=
  { h with idle_port := fun _ => rfl }

theorem StateInv.respond {s : State} (h : StateInv s) (w : Word32) : StateInv (s.respond w) :=
  { h with idle_port := by simp }

theorem StateInv.raise {s : State} (h : StateInv s) (f : ErrFlag) : StateInv (s.raise f) :=
  { h with }

theorem StateInv.clearResult {s : State} (h : StateInv s) : StateInv s.clearResult :=
  { h with
    not_both := by simp
    no_code := fun _ => rfl
    code_range := by simp }

theorem StateInv.appendKey {s : State} (h : StateInv s) (b : Byte) (hroom : s.key.length ≠ Config.keyMax) :
    StateInv (s.appendKey b) :=
  { h with
    key_fits := by
      have hfits := h.key_fits
      simp only [State.appendKey_key, List.length_append, List.length_singleton]
      omega }

theorem StateInv.appendCtr {s : State} (h : StateInv s) (b : Byte) (hidle : s.busy = false) (hroom : s.ctr.length ≠ 8) :
    StateInv (s.appendCtr b) :=
  { h with
    ctr_fits := by
      have hfits := h.ctr_fits
      simp only [State.appendCtr_ctr, List.length_append, List.length_singleton]
      omega
    busy_ctr := by simp [hidle] }

theorem StateInv.start {s : State} (h : StateInv s) (hdone : s.done = false) (hctr : s.ctr.length = 8) :
    StateInv s.start :=
  { h with
    not_both := by simp [hdone]
    busy_ctr := fun _ => hctr }

theorem StateInv.engineComplete {s : State} (h : StateInv s) : StateInv s.engineComplete where
  key_fits := Nat.zero_le _
  ctr_fits := Nat.zero_le _
  not_both := by simp
  no_code := by simp
  code_range := codeOf_le _ _
  busy_ctr := by simp
  idle_port := h.idle_port

/-- Every command keeps the invariant. -/
theorem exec_keeps_stateInv {i : Instr} {s t : State} (h : StateInv s) (he : exec i s = .next t) : StateInv t := by
  cases i with
  | clr =>
    obtain rfl := Host.Outcome.next.inj ((exec_clr s).symm.trans he)
    exact stateInv_resetStep s
  | keyb b =>
    obtain ⟨-, rfl⟩ | ⟨-, -, rfl⟩ | ⟨-, hroom, rfl⟩ := exec_keyb_cases he
    · exact (h.raise _).noResponse
    · exact (h.raise _).noResponse
    · exact (h.appendKey b hroom).noResponse
  | ctrb b =>
    obtain ⟨-, rfl⟩ | ⟨-, -, rfl⟩ | ⟨hidle, hroom, rfl⟩ := exec_ctrb_cases he
    · exact (h.raise _).noResponse
    · exact (h.raise _).noResponse
    · exact (h.appendCtr b hidle hroom).noResponse
  | go n =>
    obtain ⟨-, rfl⟩ | ⟨-, -, rfl⟩ | ⟨-, -, hctr, -, rfl⟩ := exec_go_cases he
    · exact (h.raise _).noResponse
    · exact (h.clearResult.raise _).noResponse
    · exact (h.clearResult.start rfl hctr).noResponse
  | rdstat =>
    obtain rfl := Host.Outcome.next.inj ((exec_rdstat s).symm.trans he)
    exact h.respond _
  | rdcode =>
    obtain rfl := Host.Outcome.next.inj ((exec_rdcode s).symm.trans he)
    exact h.respond _

/-- Every host step keeps the invariant, an illegal word's included. -/
theorem hostStep_keeps_stateInv {w : CmdWord} {s t : State} (h : StateInv s) (hw : hostStep w s = .next t) :
    StateInv t := by
  obtain ⟨-, -, rfl⟩ | ⟨i, -, he⟩ := hostStep_cases hw
  · exact (h.raise _).noResponse
  · exact exec_keeps_stateInv h he

/-- Every atomic step of any agent keeps the invariant (00_scope.md R4). -/
theorem AtomicStep.keeps_stateInv {s t : State} (hst : AtomicStep s t) (h : StateInv s) : StateInv t := by
  cases hst with
  | host _ _ hw => exact hostStep_keeps_stateInv h hw
  | engine _ => exact h.engineComplete
  | reset => exact stateInv_resetStep s

/-- Every sequence of atomic steps keeps the invariant (20_memory.md R41). -/
theorem AtomicRun.keeps_stateInv {s t : State} (hrun : AtomicRun s t) (h : StateInv s) : StateInv t := by
  induction hrun with
  | done _ => exact h
  | step _ _ _ hst _ ih => exact ih (hst.keeps_stateInv h)

/-- Settles O11: a reset establishes the invariant and every atomic step keeps it; an accepted `GO` and a completion by their
own rules. -/
theorem invariantAfterAnyAtomicRun : Obligations.InvariantAfterAnyAtomicRun := by
  intro s t hrun
  refine ⟨hrun.keeps_stateInv (stateInv_resetStep s), ?_, ?_⟩
  · exact fun _ _ hgo hidle hstart => err_zero_of_go_starts hgo hidle hstart
  · exact fun _ => ⟨State.engineComplete_key t, State.engineComplete_ctr t⟩

end Sys2Proof.Machine
end

section
/-! The reset state (10_state.md R22). -/
namespace Sys2Proof.Machine

/-- `STATUS` reads zero after a reset (10_state.md R22). -/
theorem status_reset : State.reset.status = 0#32 := by
  unfold State.status
  decide

/-- `CODEWORD` reads zero after a reset (10_state.md R22). -/
theorem codeword_reset : State.reset.codeword = 0#32 := by
  unfold State.codeword
  decide

/-- Settles O7: the fields by the definition of the reset state, the two views by evaluation, and `CLR` is the reset step. -/
theorem resetStateIsAllZero : Obligations.ResetStateIsAllZero :=
  ⟨rfl, rfl, rfl, rfl, rfl, rfl, rfl, rfl, status_reset, codeword_reset, exec_clr⟩

end Sys2Proof.Machine
end

section
/-! Concatenated fields and how a word is taken apart into them (30_encoding.md R45, R46). -/
namespace Sys2Proof.Machine

/-- A word is a concatenation exactly if its upper and its lower bits are the two parts. -/
theorem append_eq_iff {m n : Nat} (x : BitVec m) (y : BitVec n) (w : BitVec (m + n)) :
    x ++ y = w ↔ w.extractLsb' n m = x ∧ w.extractLsb' 0 n = y := by
  constructor
  · rintro rfl
    exact ⟨BitVec.extractLsb'_append_eq_left, BitVec.extractLsb'_append_eq_right⟩
  · rintro ⟨rfl, rfl⟩
    exact BitVec.extractLsb'_append_extractLsb'

/-- A concatenation, at any width: the lower part, and the upper part shifted above it. -/
theorem setWidth_append_eq_or {m n : Nat} (v : Nat) (x : BitVec m) (y : BitVec n) :
    (x ++ y).setWidth v = y.setWidth v ||| x.setWidth v <<< n := by
  refine BitVec.eq_of_getLsbD_eq fun i hi => ?_
  simp only [BitVec.getLsbD_or, BitVec.getLsbD_shiftLeft, BitVec.getLsbD_setWidth, BitVec.getLsbD_append]
  by_cases hlow : i < n
  · simp [hi, hlow]
  · have hshifted : i - n < v := by omega
    simp [hi, hshifted, hlow, BitVec.getLsbD_of_ge y i (by omega)]

/-- A concatenation is its upper part shifted above its lower part. -/
theorem append_eq_or {m n : Nat} (x : BitVec m) (y : BitVec n) :
    x ++ y = x.setWidth (m + n) <<< n ||| y.setWidth (m + n) := by
  rw [BitVec.or_comm, ← setWidth_append_eq_or, BitVec.setWidth_eq]

/-- The field of one bit is that bit. -/
theorem extractLsb'_one_eq_ofBool {m : Nat} (x : BitVec m) (i : Nat) :
    x.extractLsb' i 1 = BitVec.ofBool (x.getLsbD i) := by
  refine BitVec.eq_of_getLsbD_eq fun j hj => ?_
  obtain rfl : j = 0 := by omega
  simp

/-- The high byte of a word is `op` above `hi` (30_encoding.md R45). -/
theorem opField_append_hiField (w : CmdWord) : opField w ++ hiField w = w.extractLsb' 8 8 :=
  BitVec.extractLsb'_append_extractLsb'_eq_extractLsb' rfl

/-- The opcode is the upper half of the high byte (30_encoding.md R45). -/
theorem opField_eq_of_highByte {w : CmdWord} {h : Byte} (hw : w.extractLsb' 8 8 = h) :
    opField w = h.extractLsb' 4 4 :=
  ((append_eq_iff _ _ h).1 ((opField_append_hiField w).trans hw)).1.symm

end Sys2Proof.Machine
end

section
/-! The decode procedure and the encoder are inverse (30_encoding.md R50). -/
namespace Sys2Proof.Machine

/-- A word encodes `KEYB b` exactly if its high byte is `0x20` and its low byte is `b` (30_encoding.md R46, R48). -/
theorem encode_keyb_eq_iff (b : Byte) (w : CmdWord) :
    encode (.keyb b) = w ↔ w.extractLsb' 8 8 = 0x20#8 ∧ byteField w = b :=
  append_eq_iff 0x20#8 b w

/-- A word encodes `CTRB b` exactly if its high byte is `0x30` and its low byte is `b` (30_encoding.md R46, R48). -/
theorem encode_ctrb_eq_iff (b : Byte) (w : CmdWord) :
    encode (.ctrb b) = w ↔ w.extractLsb' 8 8 = 0x30#8 ∧ byteField w = b :=
  append_eq_iff 0x30#8 b w

/-- A word encodes `GO n` exactly if its opcode is 4 and its length field is `n` (30_encoding.md R46, R48). -/
theorem encode_go_eq_iff (n : BitVec 12) (w : CmdWord) :
    encode (.go n) = w ↔ opField w = 0x4#4 ∧ lengthField w = n :=
  append_eq_iff 0x4#4 n w

/-- The second test of the decode procedure (30_encoding.md R50). -/
theorem decode_of_highByte_keyb {w : CmdWord} (h : w.extractLsb' 8 8 = 0x20#8) :
    decode w = .command (.keyb (byteField w)) := by
  have hclr : w ≠ 0x1000#16 := by
    rintro rfl
    exact absurd h (by decide)
  rw [decode, if_neg hclr, if_pos h]

/-- The third test of the decode procedure (30_encoding.md R50). -/
theorem decode_of_highByte_ctrb {w : CmdWord} (h : w.extractLsb' 8 8 = 0x30#8) :
    decode w = .command (.ctrb (byteField w)) := by
  have hclr : w ≠ 0x1000#16 := by
    rintro rfl
    exact absurd h (by decide)
  have hkeyb : w.extractLsb' 8 8 ≠ 0x20#8 := by
    rw [h]
    decide
  rw [decode, if_neg hclr, if_neg hkeyb, if_pos h]

/-- The fourth test of the decode procedure (30_encoding.md R50). -/
theorem decode_of_opField_go {w : CmdWord} (h : opField w = 0x4#4) : decode w = .command (.go (lengthField w)) := by
  have hclr : w ≠ 0x1000#16 := by
    rintro rfl
    exact absurd h (by decide)
  have hkeyb : w.extractLsb' 8 8 ≠ 0x20#8 := fun hb =>
    absurd ((opField_eq_of_highByte hb).symm.trans h) (by decide)
  have hctrb : w.extractLsb' 8 8 ≠ 0x30#8 := fun hb =>
    absurd ((opField_eq_of_highByte hb).symm.trans h) (by decide)
  rw [decode, if_neg hclr, if_neg hkeyb, if_neg hctrb, if_pos h]

/-- `Decode(Encode(c)) = c` (30_encoding.md R50). -/
theorem decode_encode (i : Instr) : decode (encode i) = .command i := by
  cases i with
  | clr => decide
  | keyb b =>
    obtain ⟨hbyte, hb⟩ := (encode_keyb_eq_iff b _).1 rfl
    rw [decode_of_highByte_keyb hbyte, hb]
  | ctrb b =>
    obtain ⟨hbyte, hb⟩ := (encode_ctrb_eq_iff b _).1 rfl
    rw [decode_of_highByte_ctrb hbyte, hb]
  | go n =>
    obtain ⟨hop, hn⟩ := (encode_go_eq_iff n _).1 rfl
    rw [decode_of_opField_go hop, hn]
  | rdstat => decide
  | rdcode => decide

/-- `Encode(Decode(w)) = w` for every legal word (30_encoding.md R50), test by test. -/
theorem encode_of_decode {w : CmdWord} {i : Instr} (h : decode w = .command i) : encode i = w := by
  unfold decode at h
  split_ifs at h with hclr hkeyb hctrb hgo hrdstat hrdcode <;> cases h
  · exact hclr.symm
  · exact (encode_keyb_eq_iff _ w).2 ⟨hkeyb, rfl⟩
  · exact (encode_ctrb_eq_iff _ w).2 ⟨hctrb, rfl⟩
  · exact (encode_go_eq_iff _ w).2 ⟨hgo, rfl⟩
  · exact hrdstat.symm
  · exact hrdcode.symm

/-- A word decodes to a command exactly if it is that command's word. -/
theorem decode_eq_command_iff (w : CmdWord) (i : Instr) : decode w = .command i ↔ encode i = w := by
  constructor
  · exact encode_of_decode
  · rintro rfl
    exact decode_encode i

/-- Settles O1: a word decodes to a command exactly if it is that command's word, and the encoder's words, taken apart into
their fields, are the tests of the decode procedure. -/
theorem decodeAndEncodeAreInverse : Obligations.DecodeAndEncodeAreInverse := by
  refine ⟨fun i _ => decode_encode i, fun _ _ => encode_of_decode, fun w => ?clr, fun w b => ?keyb, fun w b => ?ctrb,
    fun w n => ?go, fun w => ?rdstat, fun w => ?rdcode, rfl, rfl, rfl, fun b => ⟨?keybWord, ?ctrbWord⟩,
    fun n => ?goWord⟩
  case clr => exact (decode_eq_command_iff w .clr).trans eq_comm
  case rdstat => exact (decode_eq_command_iff w .rdstat).trans eq_comm
  case rdcode => exact (decode_eq_command_iff w .rdcode).trans eq_comm
  case keyb =>
    rw [decode_eq_command_iff, encode_keyb_eq_iff, eq_comm (a := byteField w)]
    rfl
  case ctrb =>
    rw [decode_eq_command_iff, encode_ctrb_eq_iff, eq_comm (a := byteField w)]
    rfl
  case go =>
    rw [decode_eq_command_iff, encode_go_eq_iff, eq_comm (a := lengthField w)]
    rfl
  case keybWord => exact append_eq_or 0x20#8 b
  case ctrbWord => exact append_eq_or 0x30#8 b
  case goWord => exact append_eq_or 0x4#4 n

end Sys2Proof.Machine
end

section
/-! The two response views (30_encoding.md R51, R52). -/
namespace Sys2Proof.Machine

/-- `KLEN` does not wrap in its 12 bits (10_state.md R12, R21 I1). -/
theorem StateInv.key_length_lt {s : State} (h : StateInv s) : s.key.length < 2 ^ 12 := by
  have hmax := keyMax_range.2
  have hfits := h.key_fits
  omega

/-- `CLEN` does not wrap in its 4 bits (10_state.md R14, R21 I1). -/
theorem StateInv.ctr_length_lt {s : State} (h : StateInv s) : s.ctr.length < 2 ^ 4 := by
  have hfits := h.ctr_fits
  omega

/-! `STATUS` (30_encoding.md R51). -/

/-- The parts of `STATUS`, whatever the state. -/
theorem status_fields (s : State) :
    s.status.extractLsb' 0 1 = BitVec.ofBool s.busy ∧ s.status.extractLsb' 1 1 = BitVec.ofBool s.done ∧
    s.status.extractLsb' 2 2 = 0#2 ∧ s.status.extractLsb' 4 5 = s.err ∧ s.status.extractLsb' 9 3 = 0#3 ∧
    s.status.extractLsb' 12 4 = s.clen ∧ s.status.extractLsb' 16 12 = s.klen ∧ s.status.extractLsb' 28 4 = 0#4 := by
  unfold State.status
  simp (disch := decide) only [BitVec.extractLsb'_append_eq_of_le, BitVec.extractLsb'_append_eq_of_add_le,
    BitVec.extractLsb'_eq_self, Nat.reduceSub, and_self]

/-- `ERR` stands above bit 4 of `STATUS`, so each flag is the bit at its index there (10_state.md R18). -/
theorem status_flag_field (s : State) (f : ErrFlag) :
    s.status.extractLsb' (4 + f.index) 1 = BitVec.ofBool (s.flag f) := by
  obtain ⟨-, -, -, herr, -⟩ := status_fields s
  have hindex : f.index < 5 := by cases f <;> decide
  rw [extractLsb'_one_eq_ofBool, State.flag, ← herr, BitVec.getLsbD_extractLsb', decide_eq_true hindex, Bool.true_and]

/-- The parts of `STATUS` shifted to their places, whatever the state. -/
theorem status_eq_or (s : State) :
    s.status = (BitVec.ofBool s.busy).setWidth 32 ||| ((BitVec.ofBool s.done).setWidth 32 <<< 1) |||
      (s.err.setWidth 32 <<< 4) ||| (s.clen.setWidth 32 <<< 12) ||| (s.klen.setWidth 32 <<< 16) := by
  rw [← BitVec.setWidth_eq s.status]
  unfold State.status
  simp only [setWidth_append_eq_or, BitVec.shiftLeft_or_distrib, ← BitVec.shiftLeft_add, BitVec.setWidth_zero,
    BitVec.zero_shiftLeft, BitVec.zero_or, BitVec.or_zero, ← BitVec.or_assoc]

/-- Settles O38: the word's parts in any state; the invariant keeps the two lengths inside their fields. -/
theorem statusHasTheStatedFields : Obligations.StatusHasTheStatedFields := by
  refine ⟨status_reset, fun s h => ?_⟩
  obtain ⟨hbusy, hdone, hlow, -, hmid, hclen, hklen, htop⟩ := status_fields s
  have hflag := status_flag_field s
  refine ⟨hbusy, hdone, hlow, hflag .ill, hflag .busy, hflag .keyOvf, hflag .ctrOvf, hflag .seq, hmid, ?clen, ?klen,
    htop, ?formula⟩
  case clen => rw [hclen, State.clen, BitVec.toNat_ofNat, Nat.mod_eq_of_lt h.ctr_length_lt]
  case klen => rw [hklen, State.klen, BitVec.toNat_ofNat, Nat.mod_eq_of_lt h.key_length_lt]
  case formula =>
    rw [status_eq_or, State.clen, State.klen, BitVec.setWidth_ofNat_of_le_of_lt (by decide) h.ctr_length_lt,
      BitVec.setWidth_ofNat_of_le_of_lt (by decide) h.key_length_lt]

/-! `CODEWORD` (30_encoding.md R52). -/

/-- The parts of `CODEWORD`, whatever the state. -/
theorem codeword_fields (s : State) :
    s.codeword.extractLsb' 0 20 = s.code ∧ s.codeword.extractLsb' 20 11 = 0#11 ∧
    s.codeword.extractLsb' 31 1 = BitVec.ofBool s.done := by
  unfold State.codeword
  simp (disch := decide) only [BitVec.extractLsb'_append_eq_of_le, BitVec.extractLsb'_append_eq_of_add_le,
    BitVec.extractLsb'_eq_self, Nat.reduceSub, and_self]

/-- The parts of `CODEWORD` shifted to their places, whatever the state. -/
theorem codeword_eq_or (s : State) :
    s.codeword = ((BitVec.ofBool s.done).setWidth 32 <<< 31) ||| s.code.setWidth 32 := by
  rw [← BitVec.setWidth_eq s.codeword, BitVec.or_comm]
  unfold State.codeword
  simp only [setWidth_append_eq_or, ← BitVec.shiftLeft_add, BitVec.setWidth_zero, BitVec.zero_or]

/-- Settles O39: the word's parts in any state; without a result the invariant says that the code is 0. -/
theorem codewordHasTheStatedFields : Obligations.CodewordHasTheStatedFields := by
  refine ⟨codeword_reset, fun s h => ?_⟩
  obtain ⟨hcode, hreserved, hvalid⟩ := codeword_fields s
  refine ⟨hcode, ?range, hreserved, hvalid, codeword_eq_or s, fun hdone => ?noResult, fun hdone hzero => ?zeroCode⟩
  case range =>
    rw [hcode]
    exact h.code_range
  case noResult =>
    rw [codeword_eq_or, hdone, h.no_code hdone]
    decide
  case zeroCode =>
    rw [codeword_eq_or, hdone, hzero]
    decide

end Sys2Proof.Machine
end

section
/-! What each command does, case by case (40_host_commands.md R62 to R67): the equations behind the inversion lemmas. -/
namespace Sys2Proof.Machine

/-- `KEYB` while a computation runs (40_host_commands.md R62). -/
theorem exec_keyb_of_busy (b : Byte) {s : State} (h : s.busy = true) : exec (.keyb b) s = reject .busy s :=
  unlessBusy_of_busy h _

/-- `KEYB` on a full key buffer (40_host_commands.md R62). -/
theorem exec_keyb_of_full (b : Byte) {s : State} (hidle : s.busy = false) (hfull : s.key.length = Config.keyMax) :
    exec (.keyb b) s = reject .keyOvf s :=
  (unlessBusy_of_idle hidle _).trans (if_pos hfull)

/-- `KEYB` with room in the key buffer (40_host_commands.md R62). -/
theorem exec_keyb_of_room (b : Byte) {s : State} (hidle : s.busy = false) (hroom : s.key.length ≠ Config.keyMax) :
    exec (.keyb b) s = .next (s.appendKey b).noResponse :=
  (unlessBusy_of_idle hidle _).trans (if_neg hroom)

/-- `CTRB` while a computation runs (40_host_commands.md R63). -/
theorem exec_ctrb_of_busy (b : Byte) {s : State} (h : s.busy = true) : exec (.ctrb b) s = reject .busy s :=
  unlessBusy_of_busy h _

/-- `CTRB` on eight counter bytes (40_host_commands.md R63). -/
theorem exec_ctrb_of_full (b : Byte) {s : State} (hidle : s.busy = false) (hfull : s.ctr.length = 8) :
    exec (.ctrb b) s = reject .ctrOvf s :=
  (unlessBusy_of_idle hidle _).trans (if_pos hfull)

/-- `CTRB` with room in the counter buffer (40_host_commands.md R63). -/
theorem exec_ctrb_of_room (b : Byte) {s : State} (hidle : s.busy = false) (hroom : s.ctr.length ≠ 8) :
    exec (.ctrb b) s = .next (s.appendCtr b).noResponse :=
  (unlessBusy_of_idle hidle _).trans (if_neg hroom)

/-- `GO` while a computation runs (40_host_commands.md R64). -/
theorem exec_go_of_busy (n : BitVec 12) {s : State} (h : s.busy = true) : exec (.go n) s = reject .busy s :=
  unlessBusy_of_busy h _

/-- `GO` refused for sequence reasons (40_host_commands.md R64). -/
theorem exec_go_of_seqError {n : BitVec 12} {s : State} (hidle : s.busy = false) (hseq : seqError n s = true) :
    exec (.go n) s = reject .seq s.clearResult :=
  (unlessBusy_of_idle hidle _).trans (if_pos hseq)

/-- `GO` accepted (40_host_commands.md R64). -/
theorem exec_go_of_ready {n : BitVec 12} {s : State} (hidle : s.busy = false) (hready : ¬ seqError n s = true) :
    exec (.go n) s = .next s.clearResult.start.noResponse :=
  (unlessBusy_of_idle hidle _).trans (if_neg hready)

/-- A host step on a word that is no command (40_host_commands.md R67). -/
theorem hostStep_of_illegal {w : CmdWord} {why : IllegalWord} (s : State) (hd : decode w = .illegal why) :
    hostStep w s = reject .ill s := by
  rw [hostStep, hd, illegalWord]

/-- Appending a key byte changes the key buffer alone (20_memory.md R31). -/
theorem appendKey_eq (b : Byte) (s : State) : s.appendKey b = { s with key := s.key ++ [b] } := by
  rw [State.appendKey, memWrite_at_length]

/-- Appending a counter byte changes the counter buffer alone (20_memory.md R31). -/
theorem appendCtr_eq (b : Byte) (s : State) : s.appendCtr b = { s with ctr := s.ctr ++ [b] } := by
  rw [State.appendCtr, memWrite_at_length]

/-- Settles O13: each clause is `KEYB`'s equation for its case. -/
theorem keybAppendsOrRaises : Obligations.KeybAppendsOrRaises := by
  intro b s
  refine ⟨?encoding, exec_keyb_of_busy b, exec_keyb_of_full b, fun hidle hroom => ?append⟩
  case encoding => exact (decode_eq_command_iff _ _).2 (append_eq_or 0x20#8 b)
  case append =>
    rw [exec_keyb_of_room b hidle hroom, appendKey_eq]
    rfl

/-- Settles O14: each clause is `CTRB`'s equation for its case. -/
theorem ctrbAppendsOrRaises : Obligations.CtrbAppendsOrRaises := by
  intro b s
  refine ⟨?encoding, exec_ctrb_of_busy b, exec_ctrb_of_full b, fun hidle hroom => ?append⟩
  case encoding => exact (decode_eq_command_iff _ _).2 (append_eq_or 0x30#8 b)
  case append =>
    rw [exec_ctrb_of_room b hidle hroom, appendCtr_eq]
    rfl

/-- Settles O15: each clause is `GO`'s equation for its case, the reasons for a refusal being those of `seqError`. -/
theorem goStartsOrRaises : Obligations.GoStartsOrRaises := by
  intro n s
  refine ⟨?encoding, exec_go_of_busy n, fun hidle hreason => ?refused, fun hidle herr hctr hkey => ?accepted⟩
  case encoding => exact (decode_eq_command_iff _ _).2 (append_eq_or 0x4#4 n)
  case refused => exact exec_go_of_seqError hidle ((seqError_iff n s).2 hreason)
  case accepted =>
    refine exec_go_of_ready hidle ?_
    simp [seqError_iff, herr, hctr, hkey]

/-- Settles O18: the illegal word raises `E_ILL` and ends the step. -/
theorem illegalWordSetsOnlyIll : Obligations.IllegalWordSetsOnlyIll :=
  fun _ _ s hd => hostStep_of_illegal s hd

end Sys2Proof.Machine
end

section
/-! What the two reads answer in a state that meets the invariant (40_host_commands.md R65, R66). -/
namespace Sys2Proof.Machine

/-- With a result, `CODEWORD` is `VALID` above the code (30_encoding.md R52). -/
theorem codeword_of_done {s : State} (hdone : s.done = true) :
    s.codeword = 0x80000000#32 ||| s.code.setWidth 32 := by
  rw [codeword_eq_or, hdone]
  rfl

/-- With a result, `CODEWORD` as a number: `2^31` and the code (30_encoding.md R52). -/
theorem codeword_toNat_of_done {s : State} (hdone : s.done = true) : s.codeword.toNat = 2 ^ 31 + s.code.toNat := by
  have hcode : s.code.toNat < 2 ^ 31 := s.code.isLt.trans (by decide)
  have hwide : (s.code.setWidth 32).toNat = s.code.toNat := BitVec.toNat_setWidth_of_le (by decide)
  rw [codeword_of_done hdone, BitVec.toNat_or, hwide]
  exact (Nat.two_pow_add_eq_or_of_lt hcode 1).symm

/-- Without a result, `CODEWORD` is zero (40_host_commands.md R66, 10_state.md R21 I3). -/
theorem StateInv.codeword_of_not_done {s : State} (h : StateInv s) (hdone : s.done = false) : s.codeword = 0#32 := by
  obtain ⟨-, -, -, -, -, hzero, -⟩ := codewordHasTheStatedFields.2 s h
  exact hzero hdone

/-- A running computation has no result yet (10_state.md R21 I2). -/
theorem StateInv.not_done_of_busy {s : State} (h : StateInv s) (hbusy : s.busy = true) : s.done = false :=
  Bool.eq_false_iff.2 fun hdone => h.not_both ⟨hbusy, hdone⟩

/-- Settles O16: the `STATUS` view does not show the response port, so the read may be repeated. -/
theorem rdstatRespondsStatus : Obligations.RdstatRespondsStatus := by
  refine ⟨by decide, fun s => ⟨s.respond s.status, exec_rdstat s, rfl, ?repeated, fun h hboth => ?notBoth⟩⟩
  case repeated =>
    rw [exec_rdstat, status_respond]
    rfl
  case notBoth =>
    obtain ⟨hbusy, hdone, -⟩ := status_fields s
    rw [State.respond_rsp, hbusy, hdone] at hboth
    exact h.not_both ⟨BitVec.ofBool_eq_iff_eq.1 hboth.1, BitVec.ofBool_eq_iff_eq.1 hboth.2⟩

/-- Settles O17: the `CODEWORD` view does not show the response port, so the read may be repeated; what the word is follows
from `DONE` and the invariant. -/
theorem rdcodeRespondsCodeword : Obligations.RdcodeRespondsCodeword := by
  refine ⟨by decide, fun s => ⟨s.respond s.codeword, exec_rdcode s, rfl, ?repeated, fun h =>
    ⟨h.codeword_of_not_done, fun hbusy => h.codeword_of_not_done (h.not_done_of_busy hbusy), fun hdone =>
      ⟨codeword_of_done hdone, ?range⟩⟩⟩⟩
  case repeated =>
    rw [exec_rdcode, codeword_respond]
    rfl
  case range =>
    have hcode := h.code_range
    rw [State.respond_rsp, BitVec.le_def, codeword_toNat_of_done hdone, BitVec.toNat_ofNat]
    omega

end Sys2Proof.Machine
end

section
/-! What no host step does: set `DONE`, set `BUSY` without a `GO`, clear a flag without a `CLR` (40_host_commands.md R61). -/
namespace Sys2Proof.Machine

/-- A command that is neither `CLR` nor `GO` leaves `CODE`, `BUSY` and `DONE` (40_host_commands.md R68). -/
theorem exec_keeps_result {i : Instr} {s t : State} (h : exec i s = .next t) (hclr : i ≠ .clr) (hgo : ∀ n, i ≠ .go n) :
    t.code = s.code ∧ t.busy = s.busy ∧ t.done = s.done := by
  cases i with
  | clr => exact absurd rfl hclr
  | keyb b => obtain ⟨-, rfl⟩ | ⟨-, -, rfl⟩ | ⟨-, -, rfl⟩ := exec_keyb_cases h <;> exact ⟨rfl, rfl, rfl⟩
  | ctrb b => obtain ⟨-, rfl⟩ | ⟨-, -, rfl⟩ | ⟨-, -, rfl⟩ := exec_ctrb_cases h <;> exact ⟨rfl, rfl, rfl⟩
  | go n => exact absurd rfl (hgo n)
  | rdstat =>
    obtain rfl : s.respond s.status = t := Host.Outcome.next.inj h
    exact ⟨rfl, rfl, rfl⟩
  | rdcode =>
    obtain rfl : s.respond s.codeword = t := Host.Outcome.next.inj h
    exact ⟨rfl, rfl, rfl⟩

/-- No command makes a code appear (40_host_commands.md R61(a), 10_state.md R17). -/
theorem exec_keeps_not_done {i : Instr} {s t : State} (h : exec i s = .next t) (hdone : s.done = false) :
    t.done = false := by
  by_cases hclr : i = .clr
  · subst hclr
    obtain rfl : s.resetStep = t := Host.Outcome.next.inj h
    rfl
  by_cases hgo : ∃ n, i = .go n
  · obtain ⟨n, rfl⟩ := hgo
    obtain ⟨-, rfl⟩ | ⟨-, -, rfl⟩ | ⟨-, -, -, -, rfl⟩ := exec_go_cases h
    · exact hdone
    · rfl
    · rfl
  · obtain ⟨-, -, hkept⟩ := exec_keeps_result h hclr (not_exists.1 hgo)
    exact hkept.trans hdone

/-- Only a `GO` starts a computation (40_host_commands.md R61(a), 10_state.md R16). -/
theorem exec_starts_only_go {i : Instr} {s t : State} (h : exec i s = .next t) (hidle : s.busy = false)
    (hstart : t.busy = true) : ∃ n, i = .go n := by
  by_contra hgo
  have hclr : i ≠ .clr := by
    rintro rfl
    obtain rfl : s.resetStep = t := Host.Outcome.next.inj h
    exact Bool.false_ne_true hstart
  obtain ⟨-, hkept, -⟩ := exec_keeps_result h hclr (not_exists.1 hgo)
  exact Bool.false_ne_true ((hkept.trans hidle).symm.trans hstart)

/-- Raising a flag leaves every flag that is set (10_state.md R18). -/
theorem flag_raise_of_flag {g : ErrFlag} {s : State} (f : ErrFlag) (hg : s.flag g = true) :
    (s.raise f).flag g = true := by
  rw [flag_raise, hg, Bool.true_or]

/-- No command but `CLR` clears a flag (40_host_commands.md R61(d), 10_state.md R18). -/
theorem exec_keeps_flag {i : Instr} {s t : State} {f : ErrFlag} (h : exec i s = .next t) (hclr : i ≠ .clr)
    (hf : s.flag f = true) : t.flag f = true := by
  cases i with
  | clr => exact absurd rfl hclr
  | keyb b =>
    obtain ⟨-, rfl⟩ | ⟨-, -, rfl⟩ | ⟨-, -, rfl⟩ := exec_keyb_cases h
    · exact flag_raise_of_flag _ hf
    · exact flag_raise_of_flag _ hf
    · exact hf
  | ctrb b =>
    obtain ⟨-, rfl⟩ | ⟨-, -, rfl⟩ | ⟨-, -, rfl⟩ := exec_ctrb_cases h
    · exact flag_raise_of_flag _ hf
    · exact flag_raise_of_flag _ hf
    · exact hf
  | go n =>
    obtain ⟨-, rfl⟩ | ⟨-, -, rfl⟩ | ⟨-, -, -, -, rfl⟩ := exec_go_cases h
    · exact flag_raise_of_flag _ hf
    · exact flag_raise_of_flag (s := s.clearResult) _ hf
    · exact hf
  | rdstat =>
    obtain rfl : s.respond s.status = t := Host.Outcome.next.inj h
    exact hf
  | rdcode =>
    obtain rfl : s.respond s.codeword = t := Host.Outcome.next.inj h
    exact hf

/-- No host step makes a code appear (40_host_commands.md R61(a)). -/
theorem hostStep_keeps_not_done {w : CmdWord} {s t : State} (h : hostStep w s = .next t) (hdone : s.done = false) :
    t.done = false := by
  obtain ⟨-, -, rfl⟩ | ⟨i, -, he⟩ := hostStep_cases h
  · exact hdone
  · exact exec_keeps_not_done he hdone

/-- A host step that starts a computation executes a `GO` (40_host_commands.md R61(a)). -/
theorem hostStep_starts_only_go {w : CmdWord} {s t : State} (h : hostStep w s = .next t) (hidle : s.busy = false)
    (hstart : t.busy = true) : ∃ n, decode w = .command (.go n) := by
  obtain ⟨-, -, rfl⟩ | ⟨i, hd, he⟩ := hostStep_cases h
  · exact absurd (hidle.symm.trans hstart) Bool.false_ne_true
  · obtain ⟨n, rfl⟩ := exec_starts_only_go he hidle hstart
    exact ⟨n, hd⟩

/-- No word but `CLR` clears a flag (40_host_commands.md R61(d)). -/
theorem hostStep_keeps_flag {w : CmdWord} {s t : State} {f : ErrFlag} (h : hostStep w s = .next t)
    (hclr : decode w ≠ .command .clr) (hf : s.flag f = true) : t.flag f = true := by
  obtain ⟨-, -, rfl⟩ | ⟨i, hd, he⟩ := hostStep_cases h
  · exact flag_raise_of_flag _ hf
  · refine exec_keeps_flag he ?_ hf
    rintro rfl
    exact hclr hd

/-- Settles O12: `CLR` is the reset step in every state; the other clauses are the frames of a host step and of the
completion. -/
theorem clrClearsEverything : Obligations.ClrClearsEverything := by
  refine ⟨by decide, exec_clr, fun w s t hidle hdone h => ?noCode, exec_clr State.reset, fun w s t f => ?sticky,
    State.engineComplete_err, exec_clr⟩
  case noCode => exact ⟨hostStep_keeps_not_done h hdone, hostStep_starts_only_go h hidle⟩
  case sticky => exact hostStep_keeps_flag

end Sys2Proof.Machine
end

section
/-! The round functions and constants of SHA-1, one equation for each range of rounds (41_hmac_sha1.md R84). -/
namespace Sys2Proof.Machine

theorem roundFn_eq_choose {t : Nat} (ht : t < 20) (b c d : Word32) :
    roundFn t b c d = (b &&& c) ||| (~~~b &&& d) := if_pos ht

theorem roundFn_eq_parity {t : Nat} (ht : 20 ≤ t ∧ t < 40 ∨ 60 ≤ t) (b c d : Word32) :
    roundFn t b c d = b ^^^ c ^^^ d := by
  unfold roundFn
  rw [if_neg (by omega)]
  obtain ⟨-, hmid⟩ | hlast := ht
  · rw [if_pos hmid]
  · rw [if_neg (by omega), if_neg (by omega)]

theorem roundFn_eq_majority {t : Nat} (hge : 40 ≤ t) (hlt : t < 60) (b c d : Word32) :
    roundFn t b c d = (b &&& c) ||| (b &&& d) ||| (c &&& d) := by
  unfold roundFn
  rw [if_neg (by omega), if_neg (by omega), if_pos hlt]

/-- `Ch`: bit `i` of `b` chooses between `c` and `d`. -/
theorem getLsbD_choose {n i : Nat} (hi : i < n) (b c d : BitVec n) :
    ((b &&& c) ||| (~~~b &&& d)).getLsbD i = if b.getLsbD i then c.getLsbD i else d.getLsbD i := by
  rw [BitVec.getLsbD_or, BitVec.getLsbD_and, BitVec.getLsbD_and, BitVec.getLsbD_not, decide_eq_true hi]
  cases b.getLsbD i <;> simp

/-- `Maj`: a bit is set exactly if at least two of the three are. -/
theorem getLsbD_majority {n : Nat} (b c d : BitVec n) (i : Nat) :
    ((b &&& c) ||| (b &&& d) ||| (c &&& d)).getLsbD i =
      decide (2 ≤ (b.getLsbD i).toNat + (c.getLsbD i).toNat + (d.getLsbD i).toNat) := by
  simp only [BitVec.getLsbD_or, BitVec.getLsbD_and]
  generalize b.getLsbD i = x, c.getLsbD i = y, d.getLsbD i = z
  revert x y z
  decide

/-- `Parity`: a bit is the xor of the three. -/
theorem getLsbD_parity {n : Nat} (b c d : BitVec n) (i : Nat) :
    (b ^^^ c ^^^ d).getLsbD i = (b.getLsbD i ^^ c.getLsbD i ^^ d.getLsbD i) := by
  rw [BitVec.getLsbD_xor, BitVec.getLsbD_xor]

theorem roundConst_of_lt_20 {t : Nat} (ht : t < 20) : roundConst t = 0x5A827999#32 := if_pos ht

theorem roundConst_of_lt_40 {t : Nat} (hge : 20 ≤ t) (hlt : t < 40) : roundConst t = 0x6ED9EBA1#32 := by
  unfold roundConst
  rw [if_neg (by omega), if_pos hlt]

theorem roundConst_of_lt_60 {t : Nat} (hge : 40 ≤ t) (hlt : t < 60) : roundConst t = 0x8F1BBCDC#32 := by
  unfold roundConst
  rw [if_neg (by omega), if_neg (by omega), if_pos hlt]

theorem roundConst_of_ge_60 {t : Nat} (hge : 60 ≤ t) : roundConst t = 0xCA62C1D6#32 := by
  unfold roundConst
  rw [if_neg (by omega), if_neg (by omega), if_neg (by omega)]

/-- Settles O44: in each range of rounds, the equation of the range's function and its bits. -/
theorem roundFunctionsBitByBit : Obligations.RoundFunctionsBitByBit := by
  refine fun t b c d i hi => ⟨fun ht => ⟨?choose, roundConst_of_lt_20 ht⟩,
    fun hge hlt => ⟨?parity, roundConst_of_lt_40 hge hlt⟩,
    fun hge hlt => ⟨?majority, roundConst_of_lt_60 hge hlt⟩, fun hge => ⟨?parityAgain, roundConst_of_ge_60 hge⟩⟩
  case choose => rw [roundFn_eq_choose ht, getLsbD_choose hi]
  case parity => rw [roundFn_eq_parity (.inl ⟨hge, hlt⟩), getLsbD_parity]
  case majority => rw [roundFn_eq_majority hge hlt, getLsbD_majority]
  case parityAgain => rw [roundFn_eq_parity (.inr hge), getLsbD_parity]

end Sys2Proof.Machine
end

section
/-! Numbers as byte sequences, most significant byte first (00_scope.md R8(e)). -/
namespace Sys2Proof.Machine

/-- A concatenation as a number. -/
theorem toNat_append_eq_add {m n : Nat} (x : BitVec m) (y : BitVec n) :
    (x ++ y).toNat = x.toNat * 2 ^ n + y.toNat := by
  rw [BitVec.toNat_append, ← Nat.shiftLeft_add_eq_or_of_lt y.isLt, Nat.shiftLeft_eq]

theorem fromBE_append (x y : Bytes) : fromBE (x ++ y) = 256 ^ y.length * fromBE x + fromBE y := by
  induction y using List.reverseRecOn with
  | nil => simp
  | append_singleton y b ih =>
    rw [← List.append_assoc, fromBE_append_byte, fromBE_append_byte, ih, List.length_append, List.length_singleton]
    ring

theorem fromBE_be4 (w : Word32) : fromBE (be4 w) = w.toNat := by
  simp only [be4, fromBE, List.foldl_cons, List.foldl_nil, BitVec.extractLsb'_toNat, Nat.shiftRight_eq_div_pow]
  omega

/-- The number is 64 bits wide, so its upper and its lower half are all of it. -/
theorem fromBE_be8 (v : BitVec 64) : fromBE (be8 v) = v.toNat := by
  have hlt := v.isLt
  rw [be8, fromBE_append, fromBE_be4, fromBE_be4, be4_length]
  simp only [BitVec.extractLsb'_toNat, Nat.shiftRight_eq_div_pow]
  omega

end Sys2Proof.Machine
end

section
/-! The padding of a message and its division into blocks (41_hmac_sha1.md R82). -/
namespace Sys2Proof.Machine

/-- The padding fills the last block. -/
theorem dvd_padZeros (len : Nat) : 64 ∣ len + 1 + padZeros len + 8 := by
  unfold padZeros
  omega

/-- No fewer zero bytes fill it. -/
theorem padZeros_le {len z : Nat} (hz : 64 ∣ len + 1 + z + 8) : padZeros len ≤ z := by
  unfold padZeros
  omega

@[simp] theorem pad_length (x : Bytes) : (pad x).length = 64 * blockCount x.length := by
  simp only [pad, padZeros, blockCount, List.length_append, List.length_singleton, List.length_replicate, be8_length]
  omega

@[simp] theorem blocks_length (n : Nat) (x : Bytes) : (blocks n x).length = n := by
  induction n generalizing x with
  | zero => rfl
  | succ n ih => simp [blocks, ih]

/-- The blocks of a sequence of whole blocks join to it. -/
theorem flatten_blocks {n : Nat} {x : Bytes} (h : x.length = 64 * n) : (blocks n x).flatten = x := by
  induction n generalizing x with
  | zero => exact (List.length_eq_zero_iff.1 h).symm
  | succ n ih => rw [blocks, List.flatten_cons, ih (by simp; omega), List.take_append_drop]

theorem length_of_mem_blocks {n : Nat} {x p : Bytes} (h : x.length = 64 * n) (hp : p ∈ blocks n x) :
    p.length = 64 := by
  induction n generalizing x with
  | zero => simp [blocks] at hp
  | succ n ih =>
    obtain rfl | hp := List.mem_cons.1 hp
    · simp; omega
    · exact ih (by simp; omega) hp

/-- Settles O42: the padding is `padZeros` long, the least that fills the last block, and `blocks` cuts it without rest. -/
theorem paddingIsAsStated : Obligations.PaddingIsAsStated := by
  refine fun x => ⟨⟨padZeros x.length, rfl, dvd_padZeros _, fun _ => padZeros_le⟩, pad_length x, fun hlen => ?_,
    flatten_blocks (pad_length x), blocks_length _ _, fun _ => length_of_mem_blocks (pad_length x)⟩
  rw [fromBE_be8, BitVec.toNat_ofNat, Nat.mod_eq_of_lt (by omega)]

end Sys2Proof.Machine
end

section
/-! The message schedule (41_hmac_sha1.md R83). -/
namespace Sys2Proof.Machine

theorem wordsBE_length (p : Bytes) : (wordsBE p).length = p.length / 4 := by
  match p with
  | [] | [_] | [_, _] | [_, _, _] => simp [wordsBE]
  | a :: b :: c :: d :: rest =>
    simp only [wordsBE, List.length_cons, wordsBE_length rest]
    omega

/-- Word `t` joins the four bytes from `4t` on. -/
theorem getD_wordsBE {p : Bytes} {t : Nat} (ht : t < (wordsBE p).length) :
    (wordsBE p).getD t 0#32 =
      p.getD (4 * t) 0#8 ++ p.getD (4 * t + 1) 0#8 ++ p.getD (4 * t + 2) 0#8 ++ p.getD (4 * t + 3) 0#8 := by
  fun_induction wordsBE p generalizing t with
  | case1 a b c d rest ih =>
    cases t with
    | zero => rfl
    | succ t => exact ih (Nat.lt_of_succ_lt_succ ht)
  | case2 p hshort => simp at ht

@[simp] theorem extendSchedule_length (n : Nat) (w : List Word32) : (extendSchedule n w).length = w.length + n := by
  induction n generalizing w with
  | zero => rfl
  | succ n ih =>
    rw [extendSchedule, ih, List.length_append, List.length_singleton]
    omega

/-- Extending a schedule keeps the words it has. -/
theorem prefix_extendSchedule (n : Nat) (w : List Word32) : w <+: extendSchedule n w := by
  induction n generalizing w with
  | zero => exact List.prefix_refl w
  | succ n ih => exact (List.prefix_append w _).trans (ih _)

theorem getD_of_prefix {v w : List Word32} (h : v <+: w) {t : Nat} (ht : t < v.length) :
    w.getD t 0#32 = v.getD t 0#32 := by
  obtain ⟨rest, rfl⟩ := h
  exact List.getD_append v rest _ t ht

/-- Each new word is `nextWord` of the words before it. -/
theorem getD_extendSchedule {n t : Nat} {w : List Word32} (hge : w.length ≤ t) (hlt : t < w.length + n) :
    (extendSchedule n w).getD t 0#32 = nextWord ((extendSchedule n w).take t) := by
  induction n generalizing w with
  | zero => omega
  | succ n ih =>
    rw [extendSchedule]
    obtain rfl | hgt := Nat.eq_or_lt_of_le hge
    · have hnext := prefix_extendSchedule n (w ++ [nextWord w])
      have hold : w = (extendSchedule n (w ++ [nextWord w])).take w.length :=
        List.prefix_iff_eq_take.1 ((List.prefix_append w _).trans hnext)
      rw [← hold, getD_of_prefix hnext (by simp), List.getD_append_right _ _ _ _ le_rfl]
      simp
    · exact ih (by simpa using hgt) (by simp; omega)

/-- `nextWord` of the first `t` words reads the words 3, 8, 14 and 16 places before `t`. -/
theorem nextWord_take {s : List Word32} {t : Nat} (hge : 16 ≤ t) (hle : t ≤ s.length) :
    nextWord (s.take t) = rotl 1 (s.getD (t - 3) 0#32 ^^^ s.getD (t - 8) 0#32 ^^^ s.getD (t - 14) 0#32 ^^^
      s.getD (t - 16) 0#32) := by
  have hread (k : Nat) (hk : k < t) : (s.take t).getD k 0#32 = s.getD k 0#32 :=
    (getD_of_prefix (List.take_prefix t s) (by simp; omega)).symm
  rw [nextWord, List.length_take, Nat.min_eq_left hle, hread _ (by omega), hread _ (by omega), hread _ (by omega),
    hread _ (by omega)]

/-- Settles O43: the first sixteen words stay when the schedule is extended, and each new word is `nextWord` of those
before it. -/
theorem scheduleIsAsStated : Obligations.ScheduleIsAsStated := by
  intro p hp
  have hwords : (wordsBE p).length = 16 := by rw [wordsBE_length, hp]
  have hlength : (schedule p).length = 80 := by rw [schedule, extendSchedule_length, hwords]
  refine ⟨hlength, fun t ht => ?first, fun t hge hlt => ?later⟩
  case first =>
    rw [schedule, getD_of_prefix (prefix_extendSchedule 64 _) (by omega), getD_wordsBE (by omega)]
    simp only [toNat_append_eq_add]
    ring
  case later =>
    rw [← nextWord_take hge (by omega)]
    exact getD_extendSchedule (by omega) (by omega)

end Sys2Proof.Machine
end

section
/-! The HMAC key block (41_hmac_sha1.md R87). -/
namespace Sys2Proof.Machine

theorem shortKey_of_le {k : Bytes} (h : k.length ≤ 64) : shortKey k = k := if_neg (Nat.not_lt.2 h)

theorem shortKey_of_gt {k : Bytes} (h : 64 < k.length) : shortKey k = (sha1 k).toList := if_pos h

theorem sha1_length (x : Bytes) : (sha1 x).toList.length = 20 := Vector.length_toList

theorem shortKey_length_le (k : Bytes) : (shortKey k).length ≤ 64 := by
  obtain hle | hgt := le_or_gt k.length 64
  · rwa [shortKey_of_le hle]
  · rw [shortKey_of_gt hgt, sha1_length]
    decide

@[simp] theorem keyBlock_length (k : Bytes) : (keyBlock k).length = 64 := by
  have hle := shortKey_length_le k
  rw [keyBlock, List.length_append, List.length_replicate, blockLen_eq]
  omega

theorem keyBlock_of_le {k : Bytes} (h : k.length ≤ 64) :
    keyBlock k = k ++ List.replicate (64 - k.length) 0x00#8 := by
  rw [keyBlock, shortKey_of_le h]

theorem keyBlock_of_gt {k : Bytes} (h : 64 < k.length) :
    keyBlock k = (sha1 k).toList ++ List.replicate 44 0x00#8 := by
  rw [keyBlock, shortKey_of_gt h, sha1_length, blockLen_eq]

/-- Zero bytes appended to a key that still fits one block are what the block would be padded with. -/
theorem keyBlock_append_zeros {k : Bytes} {z : Nat} (h : k.length + z ≤ 64) :
    keyBlock (k ++ List.replicate z 0x00#8) = keyBlock k := by
  have hzeros : z + (64 - (k.length + z)) = 64 - k.length := by omega
  rw [keyBlock_of_le (by simpa using h), keyBlock_of_le (by omega), List.length_append, List.length_replicate,
    List.append_assoc, List.replicate_append_replicate, hzeros]

/-- A key longer than a block and its hash have the same key block. -/
theorem keyBlock_sha1 {k : Bytes} (h : 64 < k.length) : keyBlock (sha1 k).toList = keyBlock k := by
  rw [keyBlock_of_gt h, keyBlock_of_le (by rw [sha1_length]; decide), sha1_length]

/-- The digest depends on the key through its key block alone (41_hmac_sha1.md R88). -/
theorem hmacSha1_congr {k k' : Bytes} (h : keyBlock k = keyBlock k') (m : Bytes) : hmacSha1 k m = hmacSha1 k' m := by
  rw [hmacSha1, hmacSha1, hmacInner, hmacInner, h]

/-- And so does the code (44_engine.md R120). -/
theorem codeOf_congr {k k' : Bytes} (h : keyBlock k = keyBlock k') (m : Bytes) : codeOf k m = codeOf k' m := by
  rw [codeOf, codeOf, hmacSha1_congr h]

/-- Settles O46: the key block of a short and of a long key, and that the digest and the code depend on it alone. -/
theorem keyPreparationIsAsStated : Obligations.KeyPreparationIsAsStated := by
  refine ⟨keyBlock_length, fun k => keyBlock_of_le, fun k => keyBlock_of_gt, rfl, fun k hk => ?whole,
    fun k m z h => ?zeros, fun k m h => ⟨keyBlock_sha1 h, hmacSha1_congr (keyBlock_sha1 h) m⟩⟩
  case whole => rw [keyBlock_of_le hk.le, hk, Nat.sub_self, List.replicate_zero, List.append_nil]
  case zeros =>
    have hblock := keyBlock_append_zeros h
    exact ⟨hblock, hmacSha1_congr hblock m, codeOf_congr hblock m⟩

end Sys2Proof.Machine
end

section
/-! The dynamic truncation unit: the offset and the window as fields of the digest's bytes (42_truncation.md R101, R102). -/
namespace Sys2Proof.Machine

/-! The offset extractor (42_truncation.md R101). -/

/-- The mask `0x0F` keeps the low four bits, so the offset is that field of the last byte. -/
theorem dtOffset_eq (d : Digest) : dtOffset d = d[19].extractLsb' 0 4 := by
  have hmask : (0x0F#8).setWidth 4 = BitVec.allOnes 4 := by decide
  rw [dtOffset, BitVec.setWidth_and, hmask, BitVec.and_allOnes, BitVec.setWidth_eq_extractLsb' (by decide)]

/-- The last byte of a digest is the low byte of the chaining value's last word (41_hmac_sha1.md R86). -/
theorem getElem_digest_last (h : Chain) : h.digest[19] = h.e.extractLsb' 0 8 := rfl

/-- Settles O48: the offset is the low field of the last byte, which a digest may hold freely and which in a hash is the low
byte of `H4`. -/
theorem offsetIsTheLastNibble : Obligations.OffsetIsTheLastNibble := by
  refine ⟨fun d => ⟨?number, dtOffset_eq d⟩, fun o => ⟨Vector.replicate 20 (o.setWidth 8), ?reached⟩, fun x => ?hash⟩
  case number => rw [dtOffset_eq, BitVec.extractLsb'_toNat, Nat.shiftRight_zero]
  case reached =>
    rw [dtOffset_eq, Vector.getElem_replicate, BitVec.extractLsb'_setWidth_of_le (by decide), BitVec.extractLsb'_eq_self]
  case hash => rw [dtOffset_eq, sha1, getElem_digest_last, BitVec.extractLsb'_extractLsb'_of_le (by decide)]

/-! The window extractor (42_truncation.md R102). -/

/-- Every byte of a window lies inside the digest (42_truncation.md R103). -/
theorem windowByte_eq (d : Digest) (o : BitVec 4) (k : Fin 4) :
    windowByte d o k = (d.toList.getD (o.toNat + k.val) 0#8).setWidth 32 := by
  have hin : o.toNat + k.val < d.toList.length := by
    have ho := o.isLt
    have hk := k.isLt
    rw [Vector.length_toList]
    omega
  rw [windowByte, List.getD_eq_getElem _ _ hin, Vector.getElem_toList]

/-- The mask `0x7F` keeps the low seven bits. -/
theorem setWidth_and_mask_eq_extractLsb' (b : Byte) : b.setWidth 32 &&& 0x7F#32 = (b.extractLsb' 0 7).setWidth 32 := by
  refine BitVec.eq_of_toNat_eq ?_
  have hwide : (b.setWidth 32).toNat = b.toNat := BitVec.toNat_setWidth_of_le (by decide)
  rw [BitVec.toNat_and, hwide, BitVec.toNat_setWidth_of_le (by decide), BitVec.extractLsb'_toNat, Nat.shiftRight_zero]
  exact Nat.and_two_pow_sub_one_eq_mod b.toNat 7

/-- A concatenation, at any width, with its upper part first. -/
theorem setWidth_append_eq_shiftLeft_or {m n : Nat} (v : Nat) (x : BitVec m) (y : BitVec n) :
    (x ++ y).setWidth v = x.setWidth v <<< n ||| y.setWidth v := by
  rw [BitVec.or_comm, setWidth_append_eq_or]

/-- Masked, shifted to their places and joined, four bytes stand side by side, the first without its top bit. -/
theorem packedBytes_eq_append (b₀ b₁ b₂ b₃ : Byte) :
    (((b₀.setWidth 32 &&& 0x7F#32) <<< 24) ||| (b₁.setWidth 32 <<< 16) ||| (b₂.setWidth 32 <<< 8) |||
      b₃.setWidth 32).setWidth 31 = b₀.extractLsb' 0 7 ++ b₁ ++ b₂ ++ b₃ := by
  rw [← BitVec.setWidth_eq (_ ++ _)]
  simp (disch := decide) only [setWidth_and_mask_eq_extractLsb', setWidth_append_eq_shiftLeft_or, BitVec.setWidth_or,
    BitVec.setWidth_shiftLeft_of_le, BitVec.setWidth_setWidth_of_le, BitVec.shiftLeft_or_distrib,
    ← BitVec.shiftLeft_add]

/-- The truncated value is the window's four bytes side by side, the first without its top bit. -/
theorem dtWindow_eq_append (d : Digest) (o : BitVec 4) :
    dtWindow d o = (d.toList.getD o.toNat 0#8).extractLsb' 0 7 ++ d.toList.getD (o.toNat + 1) 0#8 ++
      d.toList.getD (o.toNat + 2) 0#8 ++ d.toList.getD (o.toNat + 3) 0#8 := by
  rw [dtWindow, windowByte_eq, windowByte_eq, windowByte_eq, windowByte_eq]
  exact packedBytes_eq_append _ _ _ _

/-- The truncated value as a number. -/
theorem dtWindow_toNat (d : Digest) (o : BitVec 4) :
    (dtWindow d o).toNat =
      (d.toList.getD o.toNat 0#8).toNat % 128 * 2 ^ 24 + (d.toList.getD (o.toNat + 1) 0#8).toNat * 2 ^ 16 +
        (d.toList.getD (o.toNat + 2) 0#8).toNat * 2 ^ 8 + (d.toList.getD (o.toNat + 3) 0#8).toNat := by
  rw [dtWindow_eq_append]
  simp only [toNat_append_eq_add, BitVec.extractLsb'_toNat, Nat.shiftRight_zero]
  ring

/-- The parts of the truncated value. -/
theorem dtWindow_fields (d : Digest) (o : BitVec 4) :
    (dtWindow d o).extractLsb' 24 7 = (d.toList.getD o.toNat 0#8).extractLsb' 0 7 ∧
    (dtWindow d o).extractLsb' 16 8 = d.toList.getD (o.toNat + 1) 0#8 ∧
    (dtWindow d o).extractLsb' 8 8 = d.toList.getD (o.toNat + 2) 0#8 ∧
    (dtWindow d o).extractLsb' 0 8 = d.toList.getD (o.toNat + 3) 0#8 := by
  rw [dtWindow_eq_append]
  simp (disch := decide) only [BitVec.extractLsb'_append_eq_of_le, BitVec.extractLsb'_append_eq_of_add_le,
    BitVec.extractLsb'_eq_self, Nat.reduceSub, and_self]

/-- Two windows with the same low seven bits of their first bytes and the same other bytes have the same truncated value. -/
theorem dtWindow_congr {d d' : Digest} {o : BitVec 4}
    (hfirst : (d'.toList.getD o.toNat 0#8).extractLsb' 0 7 = (d.toList.getD o.toNat 0#8).extractLsb' 0 7)
    (hrest : ∀ k, 0 < k → k < 4 → d'.toList.getD (o.toNat + k) 0#8 = d.toList.getD (o.toNat + k) 0#8) :
    dtWindow d' o = dtWindow d o := by
  rw [dtWindow_eq_append, dtWindow_eq_append, hfirst, hrest 1 (by decide) (by decide), hrest 2 (by decide) (by decide),
    hrest 3 (by decide) (by decide)]

theorem getD_toList_set_ne (d : Digest) (b : Byte) {j : Nat} (hj : j ≠ 19) :
    (d.set 19 b).toList.getD j 0#8 = d.toList.getD j 0#8 := by
  rw [Vector.toList_set, List.getD_eq_getElem?_getD, List.getElem?_set_ne hj.symm, List.getD_eq_getElem?_getD]

/-- The byte that supplies the offset is in no window (42_truncation.md R102(f)). -/
theorem dtWindow_set_last (d : Digest) (o : BitVec 4) (b : Byte) : dtWindow (d.set 19 b) o = dtWindow d o := by
  have ho := o.isLt
  refine dtWindow_congr ?_ fun k _ hk => ?_
  · rw [getD_toList_set_ne d b (by omega)]
  · exact getD_toList_set_ne d b (by omega)

/-- Flipping the top bit of a byte leaves its low seven bits. -/
theorem extractLsb'_xor_topBit (b : Byte) : (b ^^^ 0x80#8).extractLsb' 0 7 = b.extractLsb' 0 7 := by
  have hlow : (0x80#8).extractLsb' 0 7 = 0#7 := by decide
  rw [BitVec.extractLsb'_xor, hlow, BitVec.xor_zero]

/-- Settles O49: the number and the four fields are those of the bytes side by side, and the bits that do not matter are in
none of them. -/
theorem windowIsAsStated : Obligations.WindowIsAsStated := by
  intro d o
  obtain ⟨hfirst, hsecond, hthird, hfourth⟩ := dtWindow_fields d o
  refine ⟨dtWindow_toNat d o, hfirst, hsecond, hthird, hfourth, dtWindow_set_last d o, fun d' hsame hflip => ?topBit⟩
  case topBit =>
    refine dtWindow_congr ?_ fun k hk _ => hsame _ (by omega)
    rw [hflip, extractLsb'_xor_topBit]

end Sys2Proof.Machine
end

section
/-! The modulo-1M reducer (43_mod_reducer.md R111 to R113): the remainder, and how many inputs give each code. -/
namespace Sys2Proof.Machine

/-- The reducer on an input given as a number of the 31-bit range. -/
theorem mod1M_ofNat_toNat {v : Nat} (hv : v < 2 ^ 31) : (mod1M (BitVec.ofNat 31 v)).toNat = v % 1000000 := by
  rw [mod1M_toNat, BitVec.toNat_ofNat, Nat.mod_eq_of_lt hv]

/-- Settles O50: the range, the quotient's bound and the uniqueness are facts about the remainder by 1000000, and a code
is reached by itself because it is below the modulus. -/
theorem reducerIsTheRemainder : Obligations.ReducerIsTheRemainder := by
  refine ⟨fun v => ?remainder, fun c hc => ?reached⟩
  case remainder =>
    have hv := v.isLt
    rw [mod1M_toNat]
    exact ⟨Nat.mod_eq_sub _ _, by omega, by omega, fun c hc hcong => by omega⟩
  case reached => rw [mod1M_ofNat_toNat (by omega), Nat.mod_eq_of_lt (by omega)]

/-- The inputs that give a code are those congruent to it. -/
theorem mod1M_eq_ofNat_iff {v c : Nat} (hv : v < 2 ^ 31) (hc : c ≤ 999999) :
    mod1M (BitVec.ofNat 31 v) = BitVec.ofNat 20 c ↔ v ≡ c [MOD 1000000] := by
  have hcode : (BitVec.ofNat 20 c).toNat = c % 1000000 := by
    rw [BitVec.toNat_ofNat]
    omega
  rw [← BitVec.toNat_inj, mod1M_ofNat_toNat hv, hcode, Nat.ModEq]

/-- The 31-bit range is 2147 whole periods of the modulus and the first 483648 residues of one more. -/
theorem card_mod1M_preimages {c : Nat} (hc : c ≤ 999999) :
    ((Finset.range (2 ^ 31)).filter fun v => mod1M (BitVec.ofNat 31 v) = BitVec.ofNat 20 c).card =
      if c ≤ 483647 then 2148 else 2147 := by
  have hpartial : c % 1000000 < 2 ^ 31 % 1000000 ↔ c ≤ 483647 := by omega
  rw [Finset.filter_congr fun v hv => mod1M_eq_ofNat_iff (Finset.mem_range.mp hv) hc, ← Nat.count_eq_card_filter_range,
    Nat.count_modEq_card _ (by decide)]
  simp only [hpartial]
  split <;> rfl

/-- Settles O51: the fourteen values are evaluated, the clauses about every input follow from the remainder and the
bound on the input, and the preimages are counted by whole periods of the modulus. -/
theorem reducerCornerCases : Obligations.ReducerCornerCases := by
  refine ⟨by decide, by decide, by decide, by decide, by decide, by decide, by decide, by decide, by decide, by decide,
    by decide, by decide, by decide, by decide, fun v => ?identity, fun v hv => ?largestCode, fun v hv => ?largestMultiple,
    fun c hc => card_mod1M_preimages hc⟩
  case identity =>
    rw [mod1M_toNat]
    omega
  case largestCode =>
    have hlt := v.isLt
    rw [mod1M_toNat]
    omega
  case largestMultiple =>
    have hlt := v.isLt
    omega

end Sys2Proof.Machine
end

section
/-! The completion step as one record update, and what the atomic steps of an idle block can do (44_engine.md R121). -/
namespace Sys2Proof.Machine

/-- The three datapath elements in series (44_engine.md R120). -/
theorem codeOf_eq (k m : Bytes) : codeOf k m = mod1M (dtWindow (hmacSha1 k m) (dtOffset (hmacSha1 k m))) := by
  rw [codeOf]

/-- The completion on eight counter bytes, which it reads whole (44_engine.md R121). -/
theorem engineComplete_of_ctr_length {s : State} (hctr : s.ctr.length = 8) :
    s.engineComplete =
      { s with code := codeOf s.key s.ctr
               done := true, busy := false, key := [], ctr := [] } := by
  rw [State.engineComplete, memRead_whole, ctrLen_eq, memRead_of_length hctr]
  rfl

/-- A code that a command leaves valid was valid before it and is the same: a `GO` on an idle block and a `CLR` invalidate
it, every other outcome keeps it (40_host_commands.md R61, R64, R68). -/
theorem exec_keeps_code_of_done {i : Instr} {s t : State} (h : exec i s = .next t) (hdone : t.done = true) :
    s.done = true ∧ t.code = s.code := by
  have hsdone : s.done = true := by
    by_contra hnot
    exact Bool.false_ne_true ((exec_keeps_not_done h (Bool.eq_false_of_not_eq_true hnot)).symm.trans hdone)
  refine ⟨hsdone, ?_⟩
  by_cases hclr : i = .clr
  · subst hclr
    obtain rfl : s.resetStep = t := Host.Outcome.next.inj h
    exact absurd hdone Bool.false_ne_true
  by_cases hgo : ∃ n, i = .go n
  · obtain ⟨n, rfl⟩ := hgo
    obtain ⟨-, rfl⟩ | ⟨-, -, rfl⟩ | ⟨-, -, -, -, rfl⟩ := exec_go_cases h
    · rfl
    · exact absurd hdone Bool.false_ne_true
    · exact absurd hdone Bool.false_ne_true
  · obtain ⟨hcode, -, -⟩ := exec_keeps_result h hclr (not_exists.1 hgo)
    exact hcode

/-- The same of every host step, an illegal word's included (40_host_commands.md R67). -/
theorem hostStep_keeps_code_of_done {w : CmdWord} {s t : State} (h : hostStep w s = .next t) (hdone : t.done = true) :
    s.done = true ∧ t.code = s.code := by
  obtain ⟨-, -, rfl⟩ | ⟨i, -, he⟩ := hostStep_cases h
  · exact ⟨hdone, rfl⟩
  · exact exec_keeps_code_of_done he hdone

/-- An idle block has no completion, so its atomic steps are the host's and reset (44_engine.md R120). -/
theorem AtomicStep.cases_of_idle {s t : State} (hst : AtomicStep s t) (hidle : s.busy = false) :
    (∃ w, hostStep w s = .next t) ∨ t = s.resetStep := by
  cases hst with
  | host _ w hw => exact .inl ⟨w, hw⟩
  | engine hbusy => exact absurd (hidle.symm.trans hbusy) Bool.false_ne_true
  | reset => exact .inr rfl

/-- Settles O40: a completion reads both buffers whole; on an idle block a host step keeps or invalidates the code and starts
a computation only as a `GO`, and reset does neither. -/
theorem engineCompleteWritesTheCode : Obligations.EngineCompleteWritesTheCode := by
  refine ⟨fun s _ hctr => ?completion, fun s t hst hidle => ?idle⟩
  case completion => rw [engineComplete_of_ctr_length hctr, codeOf_eq]
  case idle =>
    obtain ⟨w, hw⟩ | rfl := hst.cases_of_idle hidle
    · refine ⟨hostStep_keeps_code_of_done hw, fun hstart => ?_⟩
      obtain ⟨n, hd⟩ := hostStep_starts_only_go hw hidle hstart
      exact ⟨w, n, hd, hw⟩
    · exact ⟨fun hdone => absurd hdone Bool.false_ne_true, fun hstart => absurd hstart Bool.false_ne_true⟩

end Sys2Proof.Machine
end

section
/-! The value of `ERR` after a host step: cleared, kept, or with one flag more, chosen by the order of checks of
60_exceptions.md R134. -/
namespace Sys2Proof.Machine

/-- A host step on the word of a command (40_host_commands.md R60). -/
theorem hostStep_of_command {w : CmdWord} {i : Instr} (s : State) (hd : decode w = .command i) :
    hostStep w s = exec i s := by
  rw [hostStep, hd]

/-- A rejection sets one flag (60_exceptions.md R131). -/
theorem err_of_reject {f : ErrFlag} {s t : State} (h : reject f s = .next t) : t.err = s.err ||| f.mask := by
  obtain rfl : (s.raise f).noResponse = t := Host.Outcome.next.inj h
  rfl

/-- `BUSY` is the first check of a load and of `GO` (60_exceptions.md R134). -/
theorem exec_load_or_go_of_busy {i : Instr} {s : State}
    (hi : (∃ b, i = .keyb b) ∨ (∃ b, i = .ctrb b) ∨ ∃ n, i = .go n) (hbusy : s.busy = true) :
    exec i s = reject .busy s := by
  obtain ⟨b, rfl⟩ | ⟨b, rfl⟩ | ⟨n, rfl⟩ := hi
  · exact exec_keyb_of_busy b hbusy
  · exact exec_ctrb_of_busy b hbusy
  · exact exec_go_of_busy n hbusy

/-- `ERR` after `KEYB` on an idle block (60_exceptions.md R130). -/
theorem exec_keyb_err_of_idle {b : Byte} {s t : State} (h : exec (.keyb b) s = .next t) (hidle : s.busy = false) :
    t.err = if s.key.length = Config.keyMax then s.err ||| ErrFlag.keyOvf.mask else s.err := by
  obtain ⟨hbusy, -⟩ | ⟨-, hfull, rfl⟩ | ⟨-, hroom, rfl⟩ := exec_keyb_cases h
  · exact absurd (hidle.symm.trans hbusy) Bool.false_ne_true
  · exact (if_pos hfull).symm
  · exact (if_neg hroom).symm

/-- `ERR` after `CTRB` on an idle block (60_exceptions.md R130). -/
theorem exec_ctrb_err_of_idle {b : Byte} {s t : State} (h : exec (.ctrb b) s = .next t) (hidle : s.busy = false) :
    t.err = if s.ctr.length = 8 then s.err ||| ErrFlag.ctrOvf.mask else s.err := by
  obtain ⟨hbusy, -⟩ | ⟨-, hfull, rfl⟩ | ⟨-, hroom, rfl⟩ := exec_ctrb_cases h
  · exact absurd (hidle.symm.trans hbusy) Bool.false_ne_true
  · exact (if_pos hfull).symm
  · exact (if_neg hroom).symm

/-- `ERR` after `GO n` on an idle block (60_exceptions.md R130). -/
theorem exec_go_err_of_idle {n : BitVec 12} {s t : State} (h : exec (.go n) s = .next t) (hidle : s.busy = false) :
    t.err = if s.err ≠ 0#5 ∨ s.ctr.length ≠ 8 ∨ s.key.length ≠ n.toNat then s.err ||| ErrFlag.seq.mask else s.err := by
  obtain ⟨hbusy, -⟩ | ⟨-, hseq, rfl⟩ | ⟨-, herr, hctr, hkey, rfl⟩ := exec_go_cases h
  · exact absurd (hidle.symm.trans hbusy) Bool.false_ne_true
  · exact (if_pos ((seqError_iff n s).1 hseq)).symm
  · refine (if_neg ?_).symm
    simp [herr, hctr, hkey]

/-- Everything a command can do to `ERR` (60_exceptions.md R131, R132). -/
theorem exec_err_cases {i : Instr} {s t : State} (h : exec i s = .next t) :
    t.err = 0#5 ∨ t.err = s.err ∨ ∃ f : ErrFlag, t.err = (s.raise f).err := by
  cases i with
  | clr =>
    obtain rfl : s.resetStep = t := Host.Outcome.next.inj h
    exact .inl rfl
  | keyb b =>
    obtain ⟨-, rfl⟩ | ⟨-, -, rfl⟩ | ⟨-, -, rfl⟩ := exec_keyb_cases h
    · exact .inr (.inr ⟨.busy, rfl⟩)
    · exact .inr (.inr ⟨.keyOvf, rfl⟩)
    · exact .inr (.inl rfl)
  | ctrb b =>
    obtain ⟨-, rfl⟩ | ⟨-, -, rfl⟩ | ⟨-, -, rfl⟩ := exec_ctrb_cases h
    · exact .inr (.inr ⟨.busy, rfl⟩)
    · exact .inr (.inr ⟨.ctrOvf, rfl⟩)
    · exact .inr (.inl rfl)
  | go n =>
    obtain ⟨-, rfl⟩ | ⟨-, -, rfl⟩ | ⟨-, -, -, -, rfl⟩ := exec_go_cases h
    · exact .inr (.inr ⟨.busy, rfl⟩)
    · exact .inr (.inr ⟨.seq, rfl⟩)
    · exact .inr (.inl rfl)
  | rdstat =>
    obtain rfl : s.respond s.status = t := Host.Outcome.next.inj h
    exact .inr (.inl rfl)
  | rdcode =>
    obtain rfl : s.respond s.codeword = t := Host.Outcome.next.inj h
    exact .inr (.inl rfl)

/-- The same of every host step, an illegal word's included (40_host_commands.md R67). -/
theorem hostStep_err_cases {w : CmdWord} {s t : State} (h : hostStep w s = .next t) :
    t.err = 0#5 ∨ t.err = s.err ∨ ∃ f : ErrFlag, t.err = (s.raise f).err := by
  obtain ⟨-, -, rfl⟩ | ⟨i, -, he⟩ := hostStep_cases h
  · exact .inr (.inr ⟨.ill, rfl⟩)
  · exact exec_err_cases he

/-- The flags are read from `ERR` alone (10_state.md R18). -/
theorem flag_congr {s t : State} (h : t.err = s.err) (f : ErrFlag) : t.flag f = s.flag f := by
  rw [State.flag, h, State.flag]

/-- A flag that rises when one is raised is the one raised. -/
theorem eq_of_flag_rises {f g : ErrFlag} {s t : State} (h : t.err = (s.raise f).err)
    (hbefore : s.flag g = false) (hafter : t.flag g = true) : f = g := by
  rw [flag_congr h, flag_raise, hbefore, Bool.false_or] at hafter
  exact of_decide_eq_true hafter

/-- Within one host step at most one flag rises (60_exceptions.md R134). -/
theorem hostStep_risen_flags_eq {w : CmdWord} {s t : State} {f g : ErrFlag} (h : hostStep w s = .next t)
    (hf : s.flag f = false) (hf' : t.flag f = true) (hg : s.flag g = false) (hg' : t.flag g = true) : f = g := by
  obtain hzero | hkept | ⟨raised, hraised⟩ := hostStep_err_cases h
  · rw [State.flag, hzero, BitVec.getLsbD_zero] at hf'
    exact absurd hf' Bool.false_ne_true
  · exact absurd (hf.symm.trans ((flag_congr hkept f).symm.trans hf')) Bool.false_ne_true
  · exact (eq_of_flag_rises hraised hf hf').symm.trans (eq_of_flag_rises hraised hg hg')

/-- Settles O22: a host step clears `ERR`, keeps it or raises one flag; which flag is the decoder's, then `BUSY`'s, then the
command's own choice. -/
theorem atMostOneFlagPerCommand : Obligations.AtMostOneFlagPerCommand := by
  intro w s t h
  refine ⟨fun f g => hostStep_risen_flags_eq h, fun why hd => ?illegal, fun i hd hi hbusy => ?busy,
    fun b hd hidle => ?keyb, fun b hd hidle => ?ctrb, fun n hd hidle => ?go⟩
  case illegal => exact err_of_reject ((hostStep_of_illegal s hd).symm.trans h)
  all_goals rw [hostStep_of_command s hd] at h
  case busy => exact err_of_reject ((exec_load_or_go_of_busy hi hbusy).symm.trans h)
  case keyb => exact exec_keyb_err_of_idle h hidle
  case ctrb => exact exec_ctrb_err_of_idle h hidle
  case go => exact exec_go_err_of_idle h hidle

end Sys2Proof.Machine
end

section
/-! What an edge decodes to, and everything a step can have done (60_exceptions.md R135, 70_reset_and_hazards.md R160). -/
namespace Sys2Proof.Machine

/-! What an edge executes. -/

/-- An edge without a reset clears exactly if it executes `CLR`. -/
theorem Edge.clears_iff {e : Edge} (hrst : e.rst = false) :
    e.clears = true ↔ e.decoded? = some (.command .clr) := by
  unfold Edge.clears
  rw [hrst, Bool.false_or]
  split
  next heq => simp [heq]
  next hne => simpa using hne

theorem Edge.clears_of_rst {e : Edge} (hrst : e.rst = true) : e.clears = true := by
  rw [Edge.clears, hrst, Bool.true_or]

theorem Edge.rst_of_clears {e : Edge} (hclr : e.clears = false) : e.rst = false :=
  Bool.eq_false_of_not_eq_true fun hrst => Bool.false_ne_true (hclr.symm.trans (Edge.clears_of_rst hrst))

/-- An edge without a reset starts exactly if it executes a `GO`. -/
theorem Edge.starts_iff {e : Edge} (hrst : e.rst = false) :
    e.starts = true ↔ ∃ n, e.decoded? = some (.command (.go n)) := by
  unfold Edge.starts
  rw [hrst, Bool.not_false, Bool.true_and]
  split
  next n heq => simp [heq]
  next hne => simpa using hne

@[simp] theorem quiet_clears : Edge.quiet.clears = false := rfl

@[simp] theorem quiet_starts : Edge.quiet.starts = false := rfl

/-- The host's part of an edge at which a word is presented (70_reset_and_hazards.md R160). -/
theorem hostPhase_of_valid {e : Edge} (s : State) (hvalid : e.cmdValid = true) : hostPhase e s = hostStep e.cmd s :=
  if_pos hvalid

/-- And of one at which none is. -/
theorem hostPhase_of_not_valid {e : Edge} (s : State) (hvalid : e.cmdValid = false) :
    hostPhase e s = .next s.noResponse :=
  if_neg (ne_true_of_eq_false hvalid)

/-- What the host's part of an edge that gives a next state did, by what the edge decodes to. -/
theorem hostPhase_inversion {e : Edge} {s u : State} (h : hostPhase e s = .next u) :
    (e.decoded? = none ∧ u = s.noResponse) ∨
      (∃ why, e.decoded? = some (.illegal why) ∧ u = (s.raise .ill).noResponse) ∨
      ∃ i, e.decoded? = some (.command i) ∧ exec i s = .next u := by
  obtain ⟨hv, hp⟩ | ⟨hv, why, hd, hp⟩ | ⟨hv, i, hd, hp⟩ := hostPhase_cases e s
  · exact .inl ⟨by simp [Edge.decoded?, hv], Host.Outcome.next.inj (h.symm.trans hp)⟩
  · exact .inr (.inl ⟨why, by simp [Edge.decoded?, hv, hd], Host.Outcome.next.inj (h.symm.trans hp)⟩)
  · exact .inr (.inr ⟨i, by simp [Edge.decoded?, hv, hd], hp.symm.trans h⟩)

/-- Everything a step can have done, on the state without its edge. -/
theorem step_cases {s t : State} (h : step s = .next t) :
    ((nextEdge s).rst = true ∧ t = s.consumeEdge.resetStep) ∨
      ((nextEdge s).rst = false ∧ ∃ u, hostPhase (nextEdge s) s.consumeEdge = .next u ∧
        t = enginePhase s.busy (nextEdge s).due u) :=
  clockEdge_cases ((step_eq s).symm.trans h)

/-! Every word, edge and run has a next state (40_host_commands.md R60). -/

theorem unlessBusy_total {s : State} {body : Result} (h : ∃ t, body = .next t) : ∃ t, unlessBusy s body = .next t := by
  cases hb : s.busy with
  | true => exact ⟨_, unlessBusy_of_busy hb body⟩
  | false => rwa [unlessBusy_of_idle hb]

/-- A check that rejects or goes on to a next state has a next state. -/
theorem ite_next_total {p : Prop} [Decidable p] (t u : State) :
    ∃ v, (if p then Host.Outcome.next t else .next u : Result) = .next v := by
  split
  · exact ⟨t, rfl⟩
  · exact ⟨u, rfl⟩

theorem exec_total (i : Instr) (s : State) : ∃ t, exec i s = .next t := by
  cases i with
  | clr => exact ⟨_, exec_clr s⟩
  | keyb b => exact unlessBusy_total (ite_next_total _ _)
  | ctrb b => exact unlessBusy_total (ite_next_total _ _)
  | go n => exact unlessBusy_total (ite_next_total _ _)
  | rdstat => exact ⟨_, exec_rdstat s⟩
  | rdcode => exact ⟨_, exec_rdcode s⟩

theorem hostStep_total (w : CmdWord) (s : State) : ∃ t, hostStep w s = .next t := by
  cases hd : decode w with
  | command i => rw [hostStep_of_command s hd]; exact exec_total i s
  | illegal why => exact ⟨_, hostStep_of_illegal s hd⟩

theorem hostPhase_total (e : Edge) (s : State) : ∃ t, hostPhase e s = .next t := by
  cases hvalid : e.cmdValid with
  | true => rw [hostPhase_of_valid s hvalid]; exact hostStep_total e.cmd s
  | false => exact ⟨_, hostPhase_of_not_valid s hvalid⟩

/-- An edge without a reset is the host's part, then the engine's. -/
theorem clockEdge_of_hostPhase {e : Edge} {s u : State} (hrst : e.rst = false) (h : hostPhase e s = .next u) :
    clockEdge e s = .next (enginePhase s.busy e.due u) := by
  rw [clockEdge, if_neg (by simp [hrst]), h, andThenEngine]

theorem clockEdge_of_rst {e : Edge} {s : State} (hrst : e.rst = true) : clockEdge e s = .next s.resetStep := by
  rw [clockEdge, if_pos hrst]

theorem clockEdge_total (e : Edge) (s : State) : ∃ t, clockEdge e s = .next t := by
  cases hrst : e.rst with
  | true => exact ⟨_, clockEdge_of_rst hrst⟩
  | false =>
    obtain ⟨u, hu⟩ := hostPhase_total e s
    exact ⟨_, clockEdge_of_hostPhase hrst hu⟩

theorem step_total (s : State) : ∃ t, step s = .next t := clockEdge_total _ _

theorem run_total (k : Nat) (s : State) : ∃ t, run k s = .next t := by
  induction k generalizing s with
  | zero => exact ⟨s, run_zero s⟩
  | succ k ih =>
    obtain ⟨u, hu⟩ := step_total s
    rw [run_succ k hu]
    exact ih u

/-- Settles O25: no command has an outcome but a next state, hence no edge and no run has. -/
theorem nothingEverStops : Obligations.NothingEverStops := ⟨hostStep_total, step_total, run_total⟩

/-! The engine's part of an edge. -/

@[simp] theorem enginePhase_of_idle (due : Bool) (s : State) : enginePhase false due s = s := rfl

@[simp] theorem enginePhase_not_due (wasBusy : Bool) (s : State) : enginePhase wasBusy false s = s := by
  cases wasBusy <;> rfl

theorem enginePhase_of_not_busy (wasBusy due : Bool) {s : State} (h : s.busy = false) : enginePhase wasBusy due s = s := by
  simp [enginePhase, h]

theorem enginePhase_of_due {s : State} (h : s.busy = true) : enginePhase true true s = s.engineComplete := by
  simp [enginePhase, h]

@[simp] theorem enginePhase_err (wasBusy due : Bool) (s : State) : (enginePhase wasBusy due s).err = s.err := by
  unfold enginePhase
  split <;> rfl

@[simp] theorem enginePhase_inputs (wasBusy due : Bool) (s : State) : (enginePhase wasBusy due s).inputs = s.inputs := by
  unfold enginePhase
  split <;> rfl

/-! Reset edges and the step of a presented command. -/

/-- A step takes the first edge off the list. -/
theorem step_of_inputs {s : State} {e : Edge} {rest : List Edge} (h : s.inputs = e :: rest) :
    step s = clockEdge e { s with inputs := rest } := by
  rw [step_eq, nextEdge_cons s e rest h, State.consumeEdge, h]
  rfl

/-- Settles O8: an edge with a reset does nothing but the reset. -/
theorem resetEdgeWinsOverEverything : Obligations.ResetEdgeWinsOverEverything := by
  intro s e rest h hrst
  rw [step_of_inputs h, clockEdge_of_rst hrst]
  rfl

/-- Settles O19: the host's part of the edge is `exec` of the decoded command, and the engine's part is its definition. -/
theorem stepRunsTheDecodedCommand : Obligations.StepRunsTheDecodedCommand := by
  intro s t e rest i h hrst hvalid hd _ hexec
  have hhost : hostPhase e { s with inputs := rest } = .next t := by
    rw [hostPhase_of_valid _ hvalid, hostStep_of_command _ hd, hexec]
  rw [step_of_inputs h, clockEdge_of_hostPhase hrst hhost, enginePhase]
  simp only [Bool.and_eq_true, and_assoc]

/-- Settles O29: the engine's part of an edge asks for a block that was busy before it. -/
theorem engineActsOnlyWhileBusy : Obligations.EngineActsOnlyWhileBusy := by
  intro s e hidle
  obtain hrst | hrst := Bool.eq_false_or_eq_true e.rst
  · exact (clockEdge_of_rst (e := { e with due := true }) hrst).trans
      (clockEdge_of_rst (e := { e with due := false }) hrst).symm
  · obtain ⟨u, hu⟩ := hostPhase_total e s
    rw [clockEdge_of_hostPhase (e := { e with due := true }) hrst hu,
      clockEdge_of_hostPhase (e := { e with due := false }) hrst hu, hidle, enginePhase_of_idle, enginePhase_of_idle]

/-! The invariant of 10_state.md R21. -/

theorem StateInv.consumeEdge {s : State} (h : StateInv s) : StateInv s.consumeEdge := { h with }

theorem StateInv.enginePhase {s : State} (h : StateInv s) (wasBusy due : Bool) :
    StateInv (enginePhase wasBusy due s) := by
  obtain ⟨-, -, -, heq⟩ | ⟨-, heq⟩ := enginePhase_cases wasBusy due s
  · rw [heq]; exact h.engineComplete
  · rwa [heq]

theorem hostPhase_keeps_stateInv {e : Edge} {s u : State} (h : StateInv s) (hu : hostPhase e s = .next u) :
    StateInv u := by
  obtain ⟨-, rfl⟩ | ⟨_, -, rfl⟩ | ⟨i, -, he⟩ := hostPhase_inversion hu
  · exact h.noResponse
  · exact (h.raise _).noResponse
  · exact exec_keeps_stateInv h he

/-- Settles O10: a reset establishes the invariant; the host's and the engine's parts of an edge keep it. -/
theorem stepKeepsInvariant : Obligations.StepKeepsInvariant := by
  intro s t h hst
  obtain ⟨-, rfl⟩ | ⟨-, u, hu, rfl⟩ := step_cases hst
  · exact stateInv_resetStep _
  · exact (hostPhase_keeps_stateInv h.consumeEdge hu).enginePhase _ _

/-- Settles O9: the reset state is what a reset leaves. -/
theorem invariantAtReset : Obligations.InvariantAtReset := stateInv_resetStep State.reset

end Sys2Proof.Machine
end

section
/-! What a step does to a computation and to its result: how `BUSY` and `DONE` change (10_state.md R16, R17,
44_engine.md R121). -/
namespace Sys2Proof.Machine

/-- Two states that agree in the buffers and in the registers of the result. -/
structure SameComputation (s t : State) : Prop where
  key : t.key = s.key
  ctr : t.ctr = s.ctr
  code : t.code = s.code
  busy : t.busy = s.busy
  done : t.done = s.done

/-- `t` holds the result of the computation on the buffers of `s` (44_engine.md R121). -/
structure Completed (s t : State) : Prop where
  key : t.key = []
  ctr : t.ctr = []
  code : t.code = codeOf s.key (memRead s.ctr 0 8)
  busy : t.busy = false
  done : t.done = true

theorem SameComputation.trans {s t u : State} (h : SameComputation s t) (h' : SameComputation t u) :
    SameComputation s u where
  key := h'.key.trans h.key
  ctr := h'.ctr.trans h.ctr
  code := h'.code.trans h.code
  busy := h'.busy.trans h.busy
  done := h'.done.trans h.done

/-- The completion after nothing else happened to the computation. -/
theorem SameComputation.completed {s u : State} (h : SameComputation s u) : Completed s u.engineComplete where
  key := rfl
  ctr := rfl
  code := by rw [State.engineComplete_code, memRead_whole, h.key, h.ctr]
  busy := rfl
  done := rfl

/-- The result of a computation that was left alone is the result of the computation. -/
theorem SameComputation.completed_trans {s t u : State} (h : SameComputation s t) (h' : Completed t u) :
    Completed s u :=
  { h' with code := by rw [h'.code, h.key, h.ctr] }

/-! A busy block (20_memory.md R42). -/

/-- While a computation runs no command but `CLR` touches it. -/
theorem exec_of_busy_sameComputation {i : Instr} {s t : State} (hbusy : s.busy = true) (hclr : i ≠ .clr)
    (h : exec i s = .next t) : SameComputation s t := by
  have rejected (hi : (∃ b, i = .keyb b) ∨ (∃ b, i = .ctrb b) ∨ ∃ n, i = .go n) : SameComputation s t := by
    obtain rfl := Host.Outcome.next.inj ((exec_load_or_go_of_busy hi hbusy).symm.trans h)
    exact ⟨rfl, rfl, rfl, rfl, rfl⟩
  cases i with
  | clr => exact absurd rfl hclr
  | keyb b => exact rejected (.inl ⟨b, rfl⟩)
  | ctrb b => exact rejected (.inr (.inl ⟨b, rfl⟩))
  | go n => exact rejected (.inr (.inr ⟨n, rfl⟩))
  | rdstat =>
    obtain rfl := Host.Outcome.next.inj ((exec_rdstat s).symm.trans h)
    exact ⟨rfl, rfl, rfl, rfl, rfl⟩
  | rdcode =>
    obtain rfl := Host.Outcome.next.inj ((exec_rdcode s).symm.trans h)
    exact ⟨rfl, rfl, rfl, rfl, rfl⟩

/-- The same of the host's part of an edge. -/
theorem hostPhase_of_busy_sameComputation {e : Edge} {s u : State} (hbusy : s.busy = true) (hclr : e.clears = false)
    (h : hostPhase e s = .next u) : SameComputation s u := by
  obtain ⟨-, rfl⟩ | ⟨_, -, rfl⟩ | ⟨i, hd, he⟩ := hostPhase_inversion h
  · exact ⟨rfl, rfl, rfl, rfl, rfl⟩
  · exact ⟨rfl, rfl, rfl, rfl, rfl⟩
  · refine exec_of_busy_sameComputation hbusy ?_ he
    rintro rfl
    exact Bool.false_ne_true (hclr.symm.trans ((Edge.clears_iff (Edge.rst_of_clears hclr)).2 hd))

/-- An edge of a busy block that clears nothing completes the computation exactly if that is due, and otherwise leaves it. -/
theorem clockEdge_of_busy {e : Edge} {s t : State} (hbusy : s.busy = true) (hclr : e.clears = false)
    (h : clockEdge e s = .next t) :
    (e.due = false ∧ SameComputation s t) ∨ (e.due = true ∧ Completed s t) := by
  obtain ⟨hrst, -⟩ | ⟨-, u, hu, rfl⟩ := clockEdge_cases h
  · exact absurd ((Edge.rst_of_clears hclr).symm.trans hrst) Bool.false_ne_true
  · have hsame := hostPhase_of_busy_sameComputation hbusy hclr hu
    cases hdue : e.due with
    | false =>
      rw [enginePhase_not_due]
      exact .inl ⟨rfl, hsame⟩
    | true =>
      rw [hbusy, enginePhase_of_due (hsame.busy.trans hbusy)]
      exact .inr ⟨rfl, hsame.completed⟩

/-- An edge that clears leaves the reset state, whatever is due (60_exceptions.md R135). -/
theorem clockEdge_of_clears {e : Edge} {s t : State} (hclr : e.clears = true) (h : clockEdge e s = .next t) :
    t = s.resetStep := by
  obtain ⟨-, rfl⟩ | ⟨hrst, u, hu, rfl⟩ := clockEdge_cases h
  · rfl
  · have hd := (Edge.clears_iff hrst).1 hclr
    obtain ⟨hnone, -⟩ | ⟨_, hill, -⟩ | ⟨i, hi, he⟩ := hostPhase_inversion hu
    · simp [hnone] at hd
    · simp [hill] at hd
    · obtain rfl : i = .clr := by simpa [hi] using hd
      obtain rfl := Host.Outcome.next.inj ((exec_clr s).symm.trans he)
      exact enginePhase_of_not_busy _ _ rfl

/-! An idle block (44_engine.md R120). -/

/-- An edge of an idle block is a reset or the host's part alone. -/
theorem clockEdge_of_idle {e : Edge} {s t : State} (hidle : s.busy = false) (h : clockEdge e s = .next t) :
    t = s.resetStep ∨ (e.rst = false ∧ hostPhase e s = .next t) := by
  obtain ⟨-, rfl⟩ | ⟨hrst, u, hu, rfl⟩ := clockEdge_cases h
  · exact .inl rfl
  · rw [hidle, enginePhase_of_idle]
    exact .inr ⟨hrst, hu⟩

/-- An idle block shows no result after an edge that it did not show before. -/
theorem clockEdge_of_idle_keeps_code {e : Edge} {s t : State} (hidle : s.busy = false) (h : clockEdge e s = .next t)
    (hdone : t.done = true) : s.done = true ∧ t.code = s.code := by
  obtain rfl | ⟨-, hu⟩ := clockEdge_of_idle hidle h
  · exact absurd hdone Bool.false_ne_true
  · obtain ⟨-, rfl⟩ | ⟨_, -, rfl⟩ | ⟨i, -, he⟩ := hostPhase_inversion hu
    · exact ⟨hdone, rfl⟩
    · exact ⟨hdone, rfl⟩
    · exact exec_keeps_code_of_done he hdone

/-- An idle block is busy after an edge only if the edge executes a `GO` that is accepted (40_host_commands.md R64). -/
theorem clockEdge_of_idle_starts {e : Edge} {s t : State} (hidle : s.busy = false) (h : clockEdge e s = .next t)
    (hbusy : t.busy = true) :
    ∃ n, e.executes (.go n) ∧ s.err = 0#5 ∧ s.ctr.length = 8 ∧ s.key.length = n.toNat ∧
      t = s.clearResult.start.noResponse := by
  have hkept : t.busy ≠ s.busy := by simp [hbusy, hidle]
  obtain rfl | ⟨hrst, hu⟩ := clockEdge_of_idle hidle h
  · exact absurd hbusy Bool.false_ne_true
  · obtain ⟨-, rfl⟩ | ⟨_, -, rfl⟩ | ⟨i, hd, he⟩ := hostPhase_inversion hu
    · exact absurd rfl hkept
    · exact absurd rfl hkept
    · obtain ⟨n, rfl⟩ := exec_starts_only_go he hidle hbusy
      obtain ⟨-, rfl⟩ | ⟨-, -, rfl⟩ | ⟨-, herr, hctr, hkey, rfl⟩ := exec_go_cases he
      · exact absurd rfl hkept
      · exact absurd rfl hkept
      · exact ⟨n, ⟨hrst, hd⟩, herr, hctr, hkey, rfl⟩

/-- An idle block keeps its result at an edge that neither clears nor starts. -/
theorem clockEdge_of_idle_keeps_done {e : Edge} {s t : State} (hidle : s.busy = false) (hclr : e.clears = false)
    (hgo : e.starts = false) (h : clockEdge e s = .next t) :
    t.busy = false ∧ t.done = s.done ∧ t.code = s.code := by
  have hrst := Edge.rst_of_clears hclr
  obtain ⟨hrst', -⟩ | ⟨-, u, hu, rfl⟩ := clockEdge_cases h
  · exact absurd (hrst.symm.trans hrst') Bool.false_ne_true
  rw [hidle, enginePhase_of_idle]
  obtain ⟨-, rfl⟩ | ⟨_, -, rfl⟩ | ⟨i, hd, he⟩ := hostPhase_inversion hu
  · exact ⟨hidle, rfl, rfl⟩
  · exact ⟨hidle, rfl, rfl⟩
  · have hiclr : i ≠ .clr := by
      rintro rfl
      exact Bool.false_ne_true (hclr.symm.trans ((Edge.clears_iff hrst).2 hd))
    have higo (n : BitVec 12) : i ≠ .go n := by
      rintro rfl
      exact Bool.false_ne_true (hgo.symm.trans ((Edge.starts_iff hrst).2 ⟨n, hd⟩))
    obtain ⟨hcode, hbusy, hdone⟩ := exec_keeps_result he hiclr higo
    exact ⟨hbusy.trans hidle, hdone, hcode⟩

/-- An edge that executes a `GO` starts. -/
theorem Edge.starts_of_executes {e : Edge} {n : BitVec 12} (h : e.executes (.go n)) : e.starts = true :=
  (Edge.starts_iff h.1).2 ⟨n, h.2⟩

/-- An idle block stays idle at an edge that starts nothing. -/
theorem clockEdge_of_idle_keeps_idle {e : Edge} {s t : State} (hidle : s.busy = false) (hgo : e.starts = false)
    (h : clockEdge e s = .next t) : t.busy = false := by
  refine Bool.eq_false_of_not_eq_true fun hbusy => ?_
  obtain ⟨n, hexec, -⟩ := clockEdge_of_idle_starts hidle h hbusy
  exact Bool.false_ne_true (hgo.symm.trans (Edge.starts_of_executes hexec))

/-! How `DONE` and `BUSY` change. -/

/-- Settles O26: an idle block's edge makes no result appear and keeps the result unless it clears or starts; a busy block's
clears, completes or leaves the computation. -/
theorem doneChangesOnlyAsStated : Obligations.DoneChangesOnlyAsStated := by
  intro s t h
  rw [step_eq] at h
  refine ⟨fun hdone hdone' => ?set, fun hdone hdone' hidle => ?kept, fun hdone hdone' => ?cleared⟩
  case set =>
    cases hbusy : s.busy with
    | false =>
      obtain ⟨hbefore, -⟩ := clockEdge_of_idle_keeps_code (s := s.consumeEdge) hbusy h hdone'
      exact absurd (hdone.symm.trans hbefore) Bool.false_ne_true
    | true =>
      cases hclr : (nextEdge s).clears with
      | true =>
        obtain rfl := clockEdge_of_clears hclr h
        exact absurd hdone' Bool.false_ne_true
      | false =>
        obtain ⟨-, hsame⟩ | ⟨hdue, hcomp⟩ := clockEdge_of_busy (s := s.consumeEdge) hbusy hclr h
        · exact absurd (hdone.symm.trans (hsame.done.symm.trans hdone')) Bool.false_ne_true
        · exact ⟨rfl, rfl, hdue, hcomp.code, hcomp.key, hcomp.ctr⟩
  case kept => exact (clockEdge_of_idle_keeps_code (s := s.consumeEdge) hidle h hdone').2
  case cleared =>
    have hchanged : t.done ≠ s.done := by simp [hdone, hdone']
    cases hclr : (nextEdge s).clears with
    | true => exact .inl rfl
    | false =>
      cases hbusy : s.busy with
      | true =>
        obtain ⟨-, hsame⟩ | ⟨-, hcomp⟩ := clockEdge_of_busy (s := s.consumeEdge) hbusy hclr h
        · exact absurd hsame.done hchanged
        · exact absurd (hcomp.done.trans hdone.symm) hchanged
      | false =>
        refine .inr ⟨Bool.eq_true_of_not_eq_false fun hgo => ?_, rfl⟩
        exact hchanged (clockEdge_of_idle_keeps_done (s := s.consumeEdge) hbusy hclr hgo h).2.1

/-- Settles O27: an idle block becomes busy by an accepted `GO` alone; a busy block's edge clears, completes or leaves the
computation. -/
theorem busyChangesOnlyAsStated : Obligations.BusyChangesOnlyAsStated := by
  intro s t h
  rw [step_eq] at h
  refine ⟨fun hidle hbusy => ?set, fun hbusy hidle => ?cleared, fun hbusy hbusy' => ?kept⟩
  case set =>
    obtain ⟨n, hexec, herr, hctr, hkey, rfl⟩ := clockEdge_of_idle_starts (s := s.consumeEdge) hidle h hbusy
    exact ⟨n, hexec, herr, hctr, hkey, rfl, rfl, herr⟩
  case cleared =>
    cases hclr : (nextEdge s).clears with
    | true => exact .inl rfl
    | false =>
      obtain ⟨-, hsame⟩ | ⟨hdue, hcomp⟩ := clockEdge_of_busy (s := s.consumeEdge) hbusy hclr h
      · exact absurd (hidle.symm.trans (hsame.busy.trans hbusy)) Bool.false_ne_true
      · exact .inr ⟨hdue, hcomp.done⟩
  case kept =>
    cases hclr : (nextEdge s).clears with
    | true =>
      obtain rfl := clockEdge_of_clears hclr h
      exact absurd hbusy' Bool.false_ne_true
    | false =>
      obtain ⟨-, hsame⟩ | ⟨-, hcomp⟩ := clockEdge_of_busy (s := s.consumeEdge) hbusy hclr h
      · exact ⟨hsame.key, hsame.ctr, hsame.code, hsame.done⟩
      · exact absurd (hcomp.busy.symm.trans hbusy') Bool.false_ne_true

/-! The flags at an edge (60_exceptions.md R132). -/

/-- No edge but a clearing one loses a flag. -/
theorem clockEdge_keeps_flag {e : Edge} {s t : State} {f : ErrFlag} (hclr : e.clears = false)
    (h : clockEdge e s = .next t) (hf : s.flag f = true) : t.flag f = true := by
  have hrst := Edge.rst_of_clears hclr
  obtain ⟨hrst', -⟩ | ⟨-, u, hu, rfl⟩ := clockEdge_cases h
  · exact absurd (hrst.symm.trans hrst') Bool.false_ne_true
  rw [flag_congr (enginePhase_err _ _ u)]
  obtain ⟨-, rfl⟩ | ⟨_, -, rfl⟩ | ⟨i, hd, he⟩ := hostPhase_inversion hu
  · exact hf
  · exact flag_raise_of_flag _ hf
  · refine exec_keeps_flag he ?_ hf
    rintro rfl
    exact Bool.false_ne_true (hclr.symm.trans ((Edge.clears_iff hrst).2 hd))

/-- Settles O23: flags are sticky in the host's part of an edge and untouched by the engine's; a clearing edge leaves the reset
state. -/
theorem flagsAreStickyUntilCleared : Obligations.FlagsAreStickyUntilCleared := by
  intro s t h
  rw [step_eq] at h
  refine ⟨fun hclr f hf => clockEdge_keeps_flag (s := s.consumeEdge) hclr h hf, fun hclr => ?cleared⟩
  case cleared =>
    obtain rfl := clockEdge_of_clears hclr h
    rfl

/-- `ERR` is zero exactly if no flag is set (10_state.md R18). -/
theorem err_ne_zero_iff (s : State) : s.err ≠ 0#5 ↔ ∃ f, s.flag f = true := by
  constructor
  · intro herr
    by_contra hnone
    refine herr (BitVec.eq_of_getLsbD_eq fun i hi => ?_)
    have hbit (f : ErrFlag) : s.err.getLsbD f.index = false := Bool.eq_false_of_not_eq_true (not_exists.1 hnone f)
    rw [BitVec.getLsbD_zero]
    match i, hi with
    | 0, _ => exact hbit .ill
    | 1, _ => exact hbit .busy
    | 2, _ => exact hbit .keyOvf
    | 3, _ => exact hbit .ctrOvf
    | 4, _ => exact hbit .seq
  · rintro ⟨f, hf⟩ herr
    rw [State.flag, herr, BitVec.getLsbD_zero] at hf
    exact Bool.false_ne_true hf

/-! Runs: what every step keeps, every run keeps. -/

/-- No command takes an edge off the list. -/
theorem exec_inputs {i : Instr} {s t : State} (h : exec i s = .next t) : t.inputs = s.inputs := by
  cases i with
  | clr => obtain rfl := Host.Outcome.next.inj ((exec_clr s).symm.trans h); rfl
  | keyb b => obtain ⟨-, rfl⟩ | ⟨-, -, rfl⟩ | ⟨-, -, rfl⟩ := exec_keyb_cases h <;> rfl
  | ctrb b => obtain ⟨-, rfl⟩ | ⟨-, -, rfl⟩ | ⟨-, -, rfl⟩ := exec_ctrb_cases h <;> rfl
  | go n => obtain ⟨-, rfl⟩ | ⟨-, -, rfl⟩ | ⟨-, -, -, -, rfl⟩ := exec_go_cases h <;> rfl
  | rdstat => obtain rfl := Host.Outcome.next.inj ((exec_rdstat s).symm.trans h); rfl
  | rdcode => obtain rfl := Host.Outcome.next.inj ((exec_rdcode s).symm.trans h); rfl

/-- An edge leaves the edges to come. -/
theorem clockEdge_inputs {e : Edge} {s t : State} (h : clockEdge e s = .next t) : t.inputs = s.inputs := by
  obtain ⟨-, rfl⟩ | ⟨-, u, hu, rfl⟩ := clockEdge_cases h
  · rfl
  rw [enginePhase_inputs]
  obtain ⟨-, rfl⟩ | ⟨_, -, rfl⟩ | ⟨i, -, he⟩ := hostPhase_inversion hu
  · rfl
  · rfl
  · exact exec_inputs he

theorem step_inputs {s t : State} (h : step s = .next t) : t.inputs = s.inputs.tail :=
  clockEdge_inputs (s := s.consumeEdge) h

/-- A property of the edges to come holds of the next edge, which is quiet once they are spent. -/
theorem nextEdge_of_forall {Q : Edge → Prop} {s : State} (hquiet : Q Edge.quiet) (hQ : ∀ e ∈ s.inputs, Q e) :
    Q (nextEdge s) := by
  cases hin : s.inputs with
  | nil => rwa [nextEdge_nil s hin]
  | cons e es =>
    rw [nextEdge_cons s e es hin]
    exact hQ e (by simp [hin])

theorem forall_inputs_of_step {Q : Edge → Prop} {s t : State} (hQ : ∀ e ∈ s.inputs, Q e) (h : step s = .next t) :
    ∀ e ∈ t.inputs, Q e := by
  rw [step_inputs h]
  exact fun e he => hQ e (List.mem_of_mem_tail he)

/-- What every step with an edge of a kind keeps, every run with edges of that kind keeps. -/
theorem run_keeps {P : State → Prop} {Q : Edge → Prop} (hquiet : Q Edge.quiet)
    (hstep : ∀ s t, P s → Q (nextEdge s) → step s = .next t → P t) {k : Nat} {s t : State} (hs : P s)
    (hQ : ∀ e ∈ s.inputs, Q e) (h : run k s = .next t) : P t := by
  induction k generalizing s with
  | zero => exact Host.Outcome.next.inj ((run_zero s).symm.trans h) ▸ hs
  | succ k ih =>
    obtain ⟨u, hu⟩ := step_total s
    rw [run_succ k hu] at h
    exact ih (hstep s u hs (nextEdge_of_forall hquiet hQ) hu) (forall_inputs_of_step hQ hu) h

/-- Settles O24: a set flag stays, and while one is set no `GO` is accepted. -/
theorem anErrorBlocksEveryStartUntilCleared : Obligations.AnErrorBlocksEveryStartUntilCleared := by
  intro k s t herr hidle hclr h
  refine run_keeps (P := fun u => u.err ≠ 0#5 ∧ u.busy = false) quiet_clears (fun s t hs hclr h => ?_) ⟨herr, hidle⟩ hclr h
  obtain ⟨herr, hidle⟩ := hs
  rw [step_eq] at h
  constructor
  · obtain ⟨f, hf⟩ := (err_ne_zero_iff s).1 herr
    exact (err_ne_zero_iff t).2 ⟨f, clockEdge_keeps_flag (s := s.consumeEdge) hclr h hf⟩
  · refine Bool.eq_false_of_not_eq_true fun hbusy => ?_
    obtain ⟨-, -, hzero, -⟩ := clockEdge_of_idle_starts (s := s.consumeEdge) hidle h hbusy
    exact herr hzero

/-- Settles O28: an edge that starts nothing keeps an idle block idle, and an idle block shows no new result. -/
theorem noResultWithoutAStart : Obligations.NoResultWithoutAStart := by
  intro k s t hidle hgo h
  refine run_keeps (P := fun u => u.busy = false ∧ (u.done = true → s.done = true ∧ u.code = s.code)) quiet_starts
    (fun u v hu hgo h => ?_) ⟨hidle, fun hdone => ⟨hdone, rfl⟩⟩ hgo h
  obtain ⟨hidle, hcode⟩ := hu
  rw [step_eq] at h
  refine ⟨clockEdge_of_idle_keeps_idle (s := u.consumeEdge) hidle hgo h, fun hdone => ?_⟩
  obtain ⟨hdone', hsame⟩ := clockEdge_of_idle_keeps_code (s := u.consumeEdge) hidle h hdone
  exact ⟨(hcode hdone').1, hsame.trans (hcode hdone').2⟩

/-- A step of a busy block whose edge does not clear. -/
theorem step_of_busy {s : State} (hbusy : s.busy = true) (hclr : (nextEdge s).clears = false) :
    ∃ t, step s = .next t ∧ (((nextEdge s).due = false ∧ SameComputation s t) ∨ Completed s t) := by
  obtain ⟨t, ht⟩ := step_total s
  obtain hkept | ⟨-, hcomp⟩ := clockEdge_of_busy (s := s.consumeEdge) hbusy hclr ht
  · exact ⟨t, ht, .inl ⟨hkept.1, hkept.2.key, hkept.2.ctr, hkept.2.code, hkept.2.busy, hkept.2.done⟩⟩
  · exact ⟨t, ht, .inr ⟨hcomp.key, hcomp.ctr, hcomp.code, hcomp.busy, hcomp.done⟩⟩

/-- A busy block completes at the latest one step after its listed edges. -/
theorem exists_run_completed {es : List Edge} {s : State} (hin : s.inputs = es) (hbusy : s.busy = true)
    (hclr : ∀ e ∈ s.inputs, e.clears = false) :
    ∃ (k : Nat) (t : State), 1 ≤ k ∧ k ≤ es.length + 1 ∧ run k s = .next t ∧ Completed s t := by
  induction es generalizing s with
  | nil =>
    obtain ⟨t, ht, ⟨hdue, -⟩ | hcomp⟩ := step_of_busy hbusy (nextEdge_of_forall quiet_clears hclr)
    · rw [nextEdge_nil s hin] at hdue
      exact absurd hdue.symm Bool.false_ne_true
    · exact ⟨1, t, le_rfl, by omega, run_succ 0 ht, hcomp⟩
  | cons e es ih =>
    obtain ⟨u, hu, ⟨-, hsame⟩ | hcomp⟩ := step_of_busy hbusy (nextEdge_of_forall quiet_clears hclr)
    · have hin' : u.inputs = es := by rw [step_inputs hu, hin, List.tail_cons]
      obtain ⟨k, t, hk, hk', hrun, hcomp⟩ := ih hin' (hsame.busy.trans hbusy) (forall_inputs_of_step hclr hu)
      exact ⟨k + 1, t, by omega, by simpa using hk', (run_succ k hu).trans hrun, hsame.completed_trans hcomp⟩
    · exact ⟨1, u, le_rfl, by omega, run_succ 0 hu, hcomp⟩

/-- Settles O34: each edge leaves the computation or completes it, and the quiet edge after the listed ones completes it. -/
theorem aStartedComputationCompletes : Obligations.AStartedComputationCompletes := by
  intro s hbusy hclr
  obtain ⟨k, t, hk, hk', hrun, hcomp⟩ := exists_run_completed rfl hbusy hclr
  exact ⟨k, t, hk, hk', hrun, hcomp.busy, hcomp.done, hcomp.code, hcomp.key, hcomp.ctr⟩

end Sys2Proof.Machine
end

section
/-! The response port after an edge, and the edge at which a computation completes (60_exceptions.md R135,
70_reset_and_hazards.md R160). -/
namespace Sys2Proof.Machine

/-- What a command leaves on the response port (40_host_commands.md R68). -/
theorem exec_port {i : Instr} {s t : State} (h : exec i s = .next t) :
    (i = .rdstat ∧ t.rspValid = true ∧ t.rsp = s.status) ∨ (i = .rdcode ∧ t.rspValid = true ∧ t.rsp = s.codeword) ∨
      (i ≠ .rdstat ∧ i ≠ .rdcode ∧ t.rspValid = false ∧ t.rsp = 0#32) := by
  cases i with
  | rdstat =>
    obtain rfl := Host.Outcome.next.inj ((exec_rdstat s).symm.trans h)
    exact .inl ⟨rfl, rfl, rfl⟩
  | rdcode =>
    obtain rfl := Host.Outcome.next.inj ((exec_rdcode s).symm.trans h)
    exact .inr (.inl ⟨rfl, rfl, rfl⟩)
  | clr =>
    obtain rfl := Host.Outcome.next.inj ((exec_clr s).symm.trans h)
    exact .inr (.inr ⟨nofun, nofun, rfl, rfl⟩)
  | keyb b =>
    refine .inr (.inr ⟨nofun, nofun, ?_⟩)
    obtain ⟨-, rfl⟩ | ⟨-, -, rfl⟩ | ⟨-, -, rfl⟩ := exec_keyb_cases h <;> exact ⟨rfl, rfl⟩
  | ctrb b =>
    refine .inr (.inr ⟨nofun, nofun, ?_⟩)
    obtain ⟨-, rfl⟩ | ⟨-, -, rfl⟩ | ⟨-, -, rfl⟩ := exec_ctrb_cases h <;> exact ⟨rfl, rfl⟩
  | go n =>
    refine .inr (.inr ⟨nofun, nofun, ?_⟩)
    obtain ⟨-, rfl⟩ | ⟨-, -, rfl⟩ | ⟨-, -, -, -, rfl⟩ := exec_go_cases h <;> exact ⟨rfl, rfl⟩

/-- An edge executes one command at most. -/
theorem Edge.executes_unique {e : Edge} {i j : Instr} (hi : e.executes i) (hj : e.executes j) : i = j := by
  simpa using hi.2.symm.trans hj.2

/-- What an edge leaves on the response port. -/
theorem clockEdge_port {e : Edge} {s t : State} (h : clockEdge e s = .next t) :
    (e.executes .rdstat ∧ t.rspValid = true ∧ t.rsp = s.status) ∨
      (e.executes .rdcode ∧ t.rspValid = true ∧ t.rsp = s.codeword) ∨
      (¬ e.executes .rdstat ∧ ¬ e.executes .rdcode ∧ t.rspValid = false ∧ t.rsp = 0#32) := by
  obtain ⟨hrst, rfl⟩ | ⟨hrst, u, hu, rfl⟩ := clockEdge_cases h
  · have hnot (i : Instr) : ¬ e.executes i := fun hi => Bool.false_ne_true (hi.1.symm.trans hrst)
    exact .inr (.inr ⟨hnot _, hnot _, rfl, rfl⟩)
  rw [enginePhase_rspValid, enginePhase_rsp]
  obtain ⟨hd, rfl⟩ | ⟨_, hd, rfl⟩ | ⟨i, hd, he⟩ := hostPhase_inversion hu
  · exact .inr (.inr ⟨by simp [Edge.executes, hd], by simp [Edge.executes, hd], rfl, rfl⟩)
  · exact .inr (.inr ⟨by simp [Edge.executes, hd], by simp [Edge.executes, hd], rfl, rfl⟩)
  · have hi : e.executes i := ⟨hrst, hd⟩
    obtain ⟨rfl, hport⟩ | ⟨rfl, hport⟩ | ⟨hstat, hcode, hport⟩ := exec_port he
    · exact .inl ⟨hi, hport⟩
    · exact .inr (.inl ⟨hi, hport⟩)
    · exact .inr (.inr ⟨fun h => hstat (Edge.executes_unique hi h), fun h => hcode (Edge.executes_unique hi h), hport⟩)

/-- Settles O30: the port after each of the three kinds of edge. -/
theorem responsePortLastsOneCycle : Obligations.ResponsePortLastsOneCycle := by
  intro s t h
  have hport := clockEdge_port ((step_eq s).symm.trans h)
  rw [status_consumeEdge, codeword_consumeEdge] at hport
  obtain ⟨hstat, hvalid, hrsp⟩ | ⟨hcode, hvalid, hrsp⟩ | ⟨hstat, hcode, hvalid, hrsp⟩ := hport
  · have hnot : ¬ (nextEdge s).executes .rdcode := fun hcode => nomatch Edge.executes_unique hstat hcode
    exact ⟨by simp [hvalid, hstat], fun _ => hrsp, fun h => absurd h hnot, by simp [hvalid]⟩
  · have hnot : ¬ (nextEdge s).executes .rdstat := fun hstat => nomatch Edge.executes_unique hstat hcode
    exact ⟨by simp [hvalid, hcode], fun h => absurd h hnot, fun _ => hrsp, by simp [hvalid]⟩
  · exact ⟨by simp [hvalid, hstat, hcode], fun h => absurd h hstat, fun h => absurd h hcode, fun _ => hrsp⟩

/-- The step at an edge that executes a command. -/
theorem step_of_executes {s t : State} {i : Instr} (hi : (nextEdge s).executes i) (h : exec i s.consumeEdge = .next t) :
    step s = .next (enginePhase s.busy (nextEdge s).due t) := by
  obtain ⟨u, hu⟩ := step_total s
  obtain ⟨hrst, -⟩ | ⟨-, v, hv, rfl⟩ := step_cases hu
  · exact absurd (hi.1.symm.trans hrst) Bool.false_ne_true
  · have hd := hi.2
    obtain ⟨hnone, -⟩ | ⟨_, hill, -⟩ | ⟨j, hj, he⟩ := hostPhase_inversion hv
    · simp [hnone] at hd
    · simp [hill] at hd
    · obtain rfl : j = i := by simpa [hj] using hd
      rw [hu, Host.Outcome.next.inj (he.symm.trans h)]

/-- The architectural state after a completion (44_engine.md R121). -/
theorem engineComplete_arch (s : State) :
    s.engineComplete.arch = ([], [], codeOf s.key (memRead s.ctr 0 8), false, true, s.err) := by
  simp [State.arch]

/-- Settles O31: the command on the state before the edge, then the completion if the block is still busy. -/
theorem commandAtTheCompletionEdge : Obligations.CommandAtTheCompletionEdge := by
  intro s hbusy hdue
  have hstep {i : Instr} {t : State} (hi : (nextEdge s).executes i) (h : exec i s.consumeEdge = .next t)
      (ht : t.busy = true) : step s = .next t.engineComplete := by
    rw [step_of_executes hi h, hbusy, hdue, enginePhase_of_due ht]
  refine ⟨fun i hi hkind => ⟨_, hstep hi (exec_load_or_go_of_busy hkind hbusy) hbusy, engineComplete_arch _⟩,
    fun hclr => ⟨_, step_of_executes hclr (exec_clr _), ?clr⟩,
    fun hread => ⟨_, hstep hread (exec_rdstat _) hbusy, ?rdstat, engineComplete_arch _⟩,
    fun hread => ⟨_, hstep hread (exec_rdcode _) hbusy, ?rdcode, engineComplete_arch _⟩⟩
  case clr => rw [enginePhase_of_not_busy _ _ rfl]; rfl
  case rdstat => rw [status_consumeEdge]; rfl
  case rdcode => rw [codeword_consumeEdge]; rfl

end Sys2Proof.Machine
end

section
/-! Clock edges and atomic steps: what an edge does depends on the architectural state alone, so that both kinds of run can
follow each other (00_scope.md R4, 20_memory.md R41, R42). -/
namespace Sys2Proof.Machine

/-- Two states with the same architectural state differ in the response port and the edges to come only. -/
theorem eq_of_arch_eq {s s' : State} (h : s'.arch = s.arch) :
    s' = { s with rspValid := s'.rspValid, rsp := s'.rsp, inputs := s'.inputs } := by
  cases s
  cases s'
  simpa [State.arch] using h

theorem status_of_arch_eq {s s' : State} (h : s'.arch = s.arch) : s'.status = s.status := by
  rw [eq_of_arch_eq h]
  exact status_congr rfl rfl rfl rfl rfl

theorem codeword_of_arch_eq {s s' : State} (h : s'.arch = s.arch) : s'.codeword = s.codeword := by
  rw [eq_of_arch_eq h]
  exact codeword_congr rfl rfl

theorem busy_of_arch_eq {s s' : State} (h : s'.arch = s.arch) : s'.busy = s.busy := by
  rw [eq_of_arch_eq h]

/-- The response port is written afresh by a step that gives no response. -/
theorem noResponse_of_arch_eq {s s' : State} (h : s'.arch = s.arch) :
    s'.noResponse = { s.noResponse with inputs := s'.inputs } := by
  rw [eq_of_arch_eq h]
  rfl

/-! Each operation keeps the agreement of two architectural states. -/

theorem raise_arch_congr {s s' : State} (f : ErrFlag) (h : s'.arch = s.arch) : (s'.raise f).arch = (s.raise f).arch := by
  rw [eq_of_arch_eq h]
  rfl

theorem engineComplete_arch_congr {s s' : State} (h : s'.arch = s.arch) :
    s'.engineComplete.arch = s.engineComplete.arch := by
  rw [eq_of_arch_eq h]
  rfl

/-- A command's next state is a function of the architectural state, but for the edges to come. -/
theorem exec_of_arch_eq {i : Instr} {s s' t : State} (h : s'.arch = s.arch) (he : exec i s = .next t) :
    exec i s' = .next { t with inputs := s'.inputs } := by
  have hs := eq_of_arch_eq h
  generalize s'.rspValid = v, s'.rsp = r, s'.inputs = es at hs ⊢
  subst hs
  cases i with
  | clr =>
    obtain rfl := Host.Outcome.next.inj ((exec_clr s).symm.trans he)
    rfl
  | keyb b =>
    obtain ⟨hbusy, rfl⟩ | ⟨hidle, hfull, rfl⟩ | ⟨hidle, hroom, rfl⟩ := exec_keyb_cases he
    · exact exec_keyb_of_busy b hbusy
    · exact exec_keyb_of_full b hidle hfull
    · exact exec_keyb_of_room b hidle hroom
  | ctrb b =>
    obtain ⟨hbusy, rfl⟩ | ⟨hidle, hfull, rfl⟩ | ⟨hidle, hroom, rfl⟩ := exec_ctrb_cases he
    · exact exec_ctrb_of_busy b hbusy
    · exact exec_ctrb_of_full b hidle hfull
    · exact exec_ctrb_of_room b hidle hroom
  | go n =>
    obtain ⟨hbusy, rfl⟩ | ⟨hidle, hseq, rfl⟩ | ⟨hidle, herr, hctr, hkey, rfl⟩ := exec_go_cases he
    · exact exec_go_of_busy n hbusy
    · exact exec_go_of_seqError hidle hseq
    · exact exec_go_of_ready hidle (by simp [seqError_iff, herr, hctr, hkey])
  | rdstat =>
    obtain rfl := Host.Outcome.next.inj ((exec_rdstat s).symm.trans he)
    rw [exec_rdstat, status_of_arch_eq h]
    rfl
  | rdcode =>
    obtain rfl := Host.Outcome.next.inj ((exec_rdcode s).symm.trans he)
    rw [exec_rdcode, codeword_of_arch_eq h]
    rfl

theorem hostStep_of_arch_eq {w : CmdWord} {s s' t : State} (h : s'.arch = s.arch) (hw : hostStep w s = .next t) :
    hostStep w s' = .next { t with inputs := s'.inputs } := by
  obtain ⟨why, hd, rfl⟩ | ⟨i, hd, he⟩ := hostStep_cases hw
  · rw [hostStep_of_illegal s' hd, reject_eq, noResponse_of_arch_eq (raise_arch_congr .ill h)]
    rfl
  · rw [hostStep_of_command s' hd, exec_of_arch_eq h he]

theorem hostPhase_of_arch_eq {e : Edge} {s s' t : State} (h : s'.arch = s.arch) (hp : hostPhase e s = .next t) :
    hostPhase e s' = .next { t with inputs := s'.inputs } := by
  cases hvalid : e.cmdValid with
  | true =>
    rw [hostPhase_of_valid _ hvalid] at hp ⊢
    exact hostStep_of_arch_eq h hp
  | false =>
    rw [hostPhase_of_not_valid _ hvalid] at hp ⊢
    obtain rfl := Host.Outcome.next.inj hp
    rw [noResponse_of_arch_eq h]

/-- The engine does not see the edges to come. -/
theorem enginePhase_withInputs (wasBusy due : Bool) (s : State) (es : List Edge) :
    enginePhase wasBusy due { s with inputs := es } = { enginePhase wasBusy due s with inputs := es } := by
  by_cases h : (wasBusy && due && s.busy) = true
  · rw [enginePhase, if_pos h, enginePhase, if_pos h]
    rfl
  · rw [enginePhase, if_neg h, enginePhase, if_neg h]

/-- An edge's next state is a function of the architectural state, but for the edges to come. -/
theorem clockEdge_of_arch_eq {e : Edge} {s s' t : State} (h : s'.arch = s.arch) (he : clockEdge e s = .next t) :
    clockEdge e s' = .next { t with inputs := s'.inputs } := by
  obtain ⟨hrst, rfl⟩ | ⟨hrst, u, hu, rfl⟩ := clockEdge_cases he
  · rw [clockEdge_of_rst hrst]
    rfl
  · rw [clockEdge_of_hostPhase hrst (hostPhase_of_arch_eq h hu), busy_of_arch_eq h, enginePhase_withInputs]

/-! Every run of edges is a run of atomic steps. -/

theorem AtomicStep.of_arch_eq {s s' t : State} (h : s'.arch = s.arch) (hst : AtomicStep s t) :
    ∃ t', AtomicStep s' t' ∧ t'.arch = t.arch := by
  cases hst with
  | host _ w hw => exact ⟨_, .host _ _ w (hostStep_of_arch_eq h hw), rfl⟩
  | engine hbusy => exact ⟨_, .engine _ ((busy_of_arch_eq h).trans hbusy), engineComplete_arch_congr h⟩
  | reset => exact ⟨_, .reset _, rfl⟩

theorem AtomicRun.of_arch_eq {s s' t : State} (h : s'.arch = s.arch) (hrun : AtomicRun s t) :
    ∃ t', AtomicRun s' t' ∧ t'.arch = t.arch := by
  induction hrun generalizing s' with
  | done => exact ⟨s', .done s', h⟩
  | step _ _ _ hst _ ih =>
    obtain ⟨u, hu, harch⟩ := hst.of_arch_eq h
    obtain ⟨t', ht', harch'⟩ := ih harch
    exact ⟨t', .step _ _ _ hu ht', harch'⟩

theorem AtomicRun.trans {s t u : State} (h : AtomicRun s t) (h' : AtomicRun t u) : AtomicRun s u := by
  induction h with
  | done => exact h'
  | step _ _ _ hst _ ih => exact .step _ _ _ hst (ih h')

/-- A step, resolved in the order of 60_exceptions.md R135: a reset alone, or the host's step, then a completion that is due of
a computation that was running before the edge and still is. -/
theorem step_resolved {s t : State} (h : step s = .next t) :
    ((nextEdge s).rst = true ∧ t.arch = s.resetStep.arch) ∨
    ((nextEdge s).rst = false ∧ ∃ u,
      (((nextEdge s).cmdValid = true ∧ hostStep (nextEdge s).cmd s = .next u) ∨ ((nextEdge s).cmdValid = false ∧ u = s)) ∧
      ((s.busy = true ∧ (nextEdge s).due = true ∧ u.busy = true ∧ t.arch = u.engineComplete.arch) ∨
        (¬ (s.busy = true ∧ (nextEdge s).due = true ∧ u.busy = true) ∧ t.arch = u.arch))) := by
  obtain ⟨hrst, rfl⟩ | ⟨hrst, v, hv, rfl⟩ := step_cases h
  · exact .inl ⟨hrst, rfl⟩
  obtain ⟨u, hhost, harch⟩ : ∃ u, (((nextEdge s).cmdValid = true ∧ hostStep (nextEdge s).cmd s = .next u) ∨
      ((nextEdge s).cmdValid = false ∧ u = s)) ∧ v.arch = u.arch := by
    cases hvalid : (nextEdge s).cmdValid with
    | true =>
      rw [hostPhase_of_valid _ hvalid] at hv
      exact ⟨_, .inl ⟨rfl, hostStep_of_arch_eq (s := s.consumeEdge) rfl hv⟩, rfl⟩
    | false =>
      rw [hostPhase_of_not_valid _ hvalid] at hv
      obtain rfl := Host.Outcome.next.inj hv
      exact ⟨s, .inr ⟨rfl, rfl⟩, rfl⟩
  refine .inr ⟨hrst, u, hhost, ?_⟩
  rw [← busy_of_arch_eq harch]
  obtain ⟨hwas, hdue, hbusy, heq⟩ | ⟨hnot, heq⟩ := enginePhase_cases s.busy (nextEdge s).due v
  · exact .inl ⟨hwas, hdue, hbusy, by rw [heq, engineComplete_arch_congr harch]⟩
  · exact .inr ⟨hnot, by rw [heq, harch]⟩

/-- A step does what one or two atomic steps, or none, do. -/
theorem atomicRun_of_step {s t : State} (h : step s = .next t) : ∃ u, AtomicRun s u ∧ u.arch = t.arch := by
  obtain ⟨-, harch⟩ | ⟨-, u, hhost, hengine⟩ := step_resolved h
  · exact ⟨_, .step _ _ _ (.reset s) (.done _), harch.symm⟩
  have hrun : AtomicRun s u := by
    obtain ⟨-, hw⟩ | ⟨-, rfl⟩ := hhost
    · exact .step _ _ _ (.host _ _ _ hw) (.done _)
    · exact .done _
  obtain ⟨-, -, hbusy, harch⟩ | ⟨-, harch⟩ := hengine
  · exact ⟨_, hrun.trans (.step _ _ _ (.engine u hbusy) (.done _)), harch.symm⟩
  · exact ⟨u, hrun, harch.symm⟩

/-- A run does what some sequence of atomic steps does. -/
theorem atomicRun_of_run {k : Nat} {s t : State} (h : run k s = .next t) : ∃ u, AtomicRun s u ∧ u.arch = t.arch := by
  induction k generalizing s with
  | zero => exact ⟨s, .done s, congrArg State.arch (Host.Outcome.next.inj h)⟩
  | succ k ih =>
    obtain ⟨v, hv⟩ := step_total s
    rw [run_succ k hv] at h
    obtain ⟨v', hrun, harch⟩ := atomicRun_of_step hv
    obtain ⟨u, hrest, hu⟩ := ih h
    obtain ⟨u', hrest', hu'⟩ := hrest.of_arch_eq harch
    exact ⟨u', hrun.trans hrest', hu'.trans hu⟩

/-- Settles O32: each step is resolved into atomic steps, and these depend on the architectural state alone. -/
theorem clockEdgesAreAtomicSteps : Obligations.ClockEdgesAreAtomicSteps :=
  ⟨fun _ _ _ => atomicRun_of_run, fun _ _ => step_resolved⟩

/-! Runs of given edges. -/

/-- The edges, one after the other, bring the block from the first state to the second; the list in the state is not asked. -/
inductive EdgeRun : List Edge → State → State → Prop where
  | nil (s : State) : EdgeRun [] s s
  | cons {e : Edge} {es : List Edge} {s t u : State} : clockEdge e s = .next t → EdgeRun es t u → EdgeRun (e :: es) s u

theorem EdgeRun.append {es es' : List Edge} {s t u : State} (h : EdgeRun es s t) (h' : EdgeRun es' t u) :
    EdgeRun (es ++ es') s u := by
  induction h with
  | nil => exact h'
  | cons he _ ih => exact .cons he (ih h')

theorem EdgeRun.singleton {e : Edge} {s t : State} (h : clockEdge e s = .next t) : EdgeRun [e] s t := .cons h (.nil t)

/-- Edges at the front of the list are what the machine runs. -/
theorem EdgeRun.run_eq {es : List Edge} {s t : State} (h : EdgeRun es s t) (rest : List Edge) :
    run es.length { s with inputs := es ++ rest } = .next { t with inputs := rest } := by
  induction h with
  | nil => rfl
  | @cons e es s t u he _ ih =>
    have hstep : step { s with inputs := e :: es ++ rest } = .next { t with inputs := es ++ rest } := by
      rw [step_of_inputs (List.cons_append ..)]
      exact clockEdge_of_arch_eq (s := s) (s' := { s with inputs := es ++ rest }) rfl he
    exact (run_succ es.length hstep).trans ih

theorem EdgeRun.total (es : List Edge) (s : State) : ∃ t, EdgeRun es s t := by
  induction es generalizing s with
  | nil => exact ⟨s, .nil s⟩
  | cons e es ih =>
    obtain ⟨u, hu⟩ := clockEdge_total e s
    obtain ⟨t, ht⟩ := ih u
    exact ⟨t, .cons hu ht⟩

theorem EdgeRun.inputs {es : List Edge} {s t : State} (h : EdgeRun es s t) : t.inputs = s.inputs := by
  induction h with
  | nil => rfl
  | cons he _ ih => exact ih.trans (clockEdge_inputs he)

/-- An atomic step is what one edge does: a word without a completion, a completion without a word, or a reset. -/
theorem AtomicStep.exists_edge {s t : State} (hst : AtomicStep s t) :
    ∃ (e : Edge) (t' : State), clockEdge e s = .next t' ∧ t'.arch = t.arch := by
  cases hst with
  | host _ w hw =>
    have hhost : hostPhase (Edge.command w) s = .next t := hw
    refine ⟨Edge.command w, t, (clockEdge_of_hostPhase rfl hhost).trans ?_, rfl⟩
    exact congrArg _ (enginePhase_not_due _ t)
  | engine hbusy =>
    refine ⟨Edge.quiet, s.noResponse.engineComplete, ?_, engineComplete_arch_congr rfl⟩
    have hhost : hostPhase Edge.quiet s = .next s.noResponse := rfl
    rw [clockEdge_of_hostPhase rfl hhost, hbusy]
    exact congrArg _ (enginePhase_of_due hbusy)
  | reset => exact ⟨Edge.reset, s.resetStep, rfl, rfl⟩

/-- A sequence of atomic steps is what some edges do, from any state with the architectural state of its first. -/
theorem AtomicRun.exists_edgeRun {s s' t : State} (hrun : AtomicRun s t) (h : s'.arch = s.arch) :
    ∃ (es : List Edge) (t' : State), EdgeRun es s' t' ∧ t'.arch = t.arch := by
  induction hrun generalizing s' with
  | done => exact ⟨[], s', .nil s', h⟩
  | step _ _ _ hst _ ih =>
    obtain ⟨u, hu, hu'⟩ := hst.of_arch_eq h
    obtain ⟨e, v, hv, hv'⟩ := hu.exists_edge
    obtain ⟨es, t', hes, ht'⟩ := ih (hv'.trans hu')
    exact ⟨e :: es, t', .cons hv hes, ht'⟩

/-- Settles O33: one edge for each atomic step, and the edges after them stay. -/
theorem everyInterleavingIsSomeEdges : Obligations.EveryInterleavingIsSomeEdges := by
  intro s t rest hrun
  obtain ⟨es, t', hes, harch⟩ := hrun.exists_edgeRun rfl
  exact ⟨es, _, hes.run_eq rest, harch, rfl⟩

end Sys2Proof.Machine
end

section
/-! Secrecy: what the host can see does not depend on the buffers' contents before a code is read (44_engine.md R124(c)). -/
namespace Sys2Proof.Machine

/-! Each operation keeps two states that differ in the secret alone so. -/

theorem SameOutside.noResponse {s t : State} (h : SameOutside s t) : SameOutside s.noResponse t.noResponse :=
  { h with rspValid := rfl }

theorem SameOutside.respond {s t : State} (h : SameOutside s t) (w w' : Word32) :
    SameOutside (s.respond w) (t.respond w') :=
  { h with rspValid := rfl }

theorem SameOutside.raise {s t : State} (h : SameOutside s t) (f : ErrFlag) : SameOutside (s.raise f) (t.raise f) :=
  { h with err := congrArg (· ||| f.mask) h.err }

theorem SameOutside.clearResult {s t : State} (h : SameOutside s t) : SameOutside s.clearResult t.clearResult :=
  { h with done := rfl }

theorem SameOutside.start {s t : State} (h : SameOutside s t) : SameOutside s.start t.start :=
  { h with busy := rfl }

theorem SameOutside.appendKey {s t : State} (h : SameOutside s t) (b : Byte) :
    SameOutside (s.appendKey b) (t.appendKey b) :=
  { h with key_length := by simp [h.key_length] }

theorem SameOutside.appendCtr {s t : State} (h : SameOutside s t) (b : Byte) :
    SameOutside (s.appendCtr b) (t.appendCtr b) :=
  { h with ctr_length := by simp [h.ctr_length] }

theorem SameOutside.resetStep {s t : State} (h : SameOutside s t) : SameOutside s.resetStep t.resetStep :=
  { h with key_length := rfl, ctr_length := rfl, busy := rfl, done := rfl, err := rfl, rspValid := rfl }

theorem SameOutside.engineComplete {s t : State} (h : SameOutside s t) :
    SameOutside s.engineComplete t.engineComplete :=
  { h with key_length := rfl, ctr_length := rfl, busy := rfl, done := rfl }

theorem SameOutside.consumeEdge {s t : State} (h : SameOutside s t) : SameOutside s.consumeEdge t.consumeEdge :=
  { h with inputs := congrArg List.tail h.inputs }

theorem SameOutside.enginePhase {s t : State} (h : SameOutside s t) (wasBusy due : Bool) :
    SameOutside (enginePhase wasBusy due s) (enginePhase wasBusy due t) := by
  unfold Machine.enginePhase
  rw [h.busy]
  split
  · exact h.engineComplete
  · exact h

/-- The refusal of a `GO` does not depend on the secret. -/
theorem SameOutside.seqError {s t : State} (h : SameOutside s t) (n : BitVec 12) : seqError n s = seqError n t := by
  rw [Machine.seqError, Machine.seqError, h.err, h.ctr_length, h.key_length]

/-- Two next states that differ in the secret alone, and whose responses are equal if the codes before were. -/
structure SameAnswer (s t s' t' : State) : Prop where
  outside : SameOutside s' t'
  response : s.code = t.code → s'.rsp = t'.rsp

/-- Two steps without a response answer alike. -/
theorem SameOutside.sameAnswer_noResponse {s t u v : State} (h : SameOutside u v) :
    SameAnswer s t u.noResponse v.noResponse :=
  ⟨h.noResponse, fun _ => rfl⟩

/-- Every command answers alike: its checks ask for lengths and flags, and only `RDCODE` shows the code. -/
theorem exec_sameAnswer {i : Instr} {s t s' t' : State} (h : SameOutside s t) (hs : exec i s = .next s')
    (ht : exec i t = .next t') : SameAnswer s t s' t' := by
  have next_unique {u : State} (hu : exec i t = .next u) : t' = u := Host.Outcome.next.inj (ht.symm.trans hu)
  cases i with
  | clr =>
    obtain rfl := Host.Outcome.next.inj ((exec_clr s).symm.trans hs)
    obtain rfl := next_unique (exec_clr t)
    exact ⟨h.resetStep, fun _ => rfl⟩
  | keyb b =>
    obtain ⟨hbusy, rfl⟩ | ⟨hidle, hfull, rfl⟩ | ⟨hidle, hroom, rfl⟩ := exec_keyb_cases hs
    · obtain rfl := next_unique (exec_keyb_of_busy b (h.busy ▸ hbusy))
      exact (h.raise _).sameAnswer_noResponse
    · obtain rfl := next_unique (exec_keyb_of_full b (h.busy ▸ hidle) (h.key_length ▸ hfull))
      exact (h.raise _).sameAnswer_noResponse
    · obtain rfl := next_unique (exec_keyb_of_room b (h.busy ▸ hidle) (h.key_length ▸ hroom))
      exact (h.appendKey b).sameAnswer_noResponse
  | ctrb b =>
    obtain ⟨hbusy, rfl⟩ | ⟨hidle, hfull, rfl⟩ | ⟨hidle, hroom, rfl⟩ := exec_ctrb_cases hs
    · obtain rfl := next_unique (exec_ctrb_of_busy b (h.busy ▸ hbusy))
      exact (h.raise _).sameAnswer_noResponse
    · obtain rfl := next_unique (exec_ctrb_of_full b (h.busy ▸ hidle) (h.ctr_length ▸ hfull))
      exact (h.raise _).sameAnswer_noResponse
    · obtain rfl := next_unique (exec_ctrb_of_room b (h.busy ▸ hidle) (h.ctr_length ▸ hroom))
      exact (h.appendCtr b).sameAnswer_noResponse
  | go n =>
    obtain ⟨hbusy, rfl⟩ | ⟨hidle, hseq, rfl⟩ | ⟨hidle, herr, hctr, hkey, rfl⟩ := exec_go_cases hs
    · obtain rfl := next_unique (exec_go_of_busy n (h.busy ▸ hbusy))
      exact (h.raise _).sameAnswer_noResponse
    · obtain rfl := next_unique (exec_go_of_seqError (h.busy ▸ hidle) ((h.seqError n).symm.trans hseq))
      exact (h.clearResult.raise _).sameAnswer_noResponse
    · have hready : ¬ seqError n t = true := by
        simp [← h.seqError n, seqError_iff, herr, hctr, hkey]
      obtain rfl := next_unique (exec_go_of_ready (h.busy ▸ hidle) hready)
      exact h.clearResult.start.sameAnswer_noResponse
  | rdstat =>
    obtain rfl := Host.Outcome.next.inj ((exec_rdstat s).symm.trans hs)
    obtain rfl := next_unique (exec_rdstat t)
    exact ⟨h.respond _ _, fun _ => status_congr h.key_length h.ctr_length h.busy h.done h.err⟩
  | rdcode =>
    obtain rfl := Host.Outcome.next.inj ((exec_rdcode s).symm.trans hs)
    obtain rfl := next_unique (exec_rdcode t)
    exact ⟨h.respond _ _, fun hcode => codeword_congr h.done hcode⟩

theorem hostPhase_sameAnswer {e : Edge} {s t s' t' : State} (h : SameOutside s t) (hs : hostPhase e s = .next s')
    (ht : hostPhase e t = .next t') : SameAnswer s t s' t' := by
  have next_unique {u : State} (hu : hostPhase e t = .next u) : t' = u := Host.Outcome.next.inj (ht.symm.trans hu)
  obtain ⟨hv, hp⟩ | ⟨hv, why, hd, hp⟩ | ⟨hv, i, hd, hp⟩ := hostPhase_cases e s
  · obtain rfl := Host.Outcome.next.inj (hp.symm.trans hs)
    obtain rfl := next_unique (hostPhase_of_not_valid t hv)
    exact h.sameAnswer_noResponse
  · obtain rfl := Host.Outcome.next.inj (hp.symm.trans hs)
    obtain rfl := next_unique ((hostPhase_of_valid t hv).trans (hostStep_of_illegal t hd))
    exact (h.raise .ill).sameAnswer_noResponse
  · rw [hostPhase_of_valid t hv, hostStep_of_command t hd] at ht
    exact exec_sameAnswer h (hp.symm.trans hs) ht

theorem clockEdge_sameAnswer {e : Edge} {s t s' t' : State} (h : SameOutside s t) (hs : clockEdge e s = .next s')
    (ht : clockEdge e t = .next t') : SameAnswer s t s' t' := by
  obtain ⟨hrst, rfl⟩ | ⟨hrst, u, hu, rfl⟩ := clockEdge_cases hs
  · obtain rfl := Host.Outcome.next.inj ((clockEdge_of_rst hrst).symm.trans ht)
    exact ⟨h.resetStep, fun _ => rfl⟩
  · obtain ⟨v, hv⟩ := hostPhase_total e t
    obtain rfl := Host.Outcome.next.inj ((clockEdge_of_hostPhase hrst hv).symm.trans ht)
    obtain ⟨houtside, hresponse⟩ := hostPhase_sameAnswer h hu hv
    rw [h.busy]
    exact ⟨houtside.enginePhase _ _, by simpa using hresponse⟩

/-- Settles O36: the two states have the same next edge, and every part of an edge answers alike. -/
theorem onlyTheCodeDependsOnTheSecret : Obligations.OnlyTheCodeDependsOnTheSecret := by
  intro s t s' t' h hs ht
  have hedge : nextEdge t = nextEdge s := congrArg (List.headD · Edge.quiet) h.inputs.symm
  rw [step_eq] at hs ht
  rw [hedge] at ht
  obtain ⟨houtside, hresponse⟩ := clockEdge_sameAnswer h.consumeEdge hs ht
  exact ⟨houtside, hresponse⟩

end Sys2Proof.Machine
end

section
/-! The write matrix as frames (40_host_commands.md R68), and which flag a word raises (60_exceptions.md R130, R134). -/
namespace Sys2Proof.Machine

/-- Only `CLR` and `KEYB` write the key buffer. -/
theorem exec_keeps_key {i : Instr} {s t : State} (h : exec i s = .next t) (hclr : i ≠ .clr) (hkeyb : ∀ b, i ≠ .keyb b) :
    t.key = s.key := by
  cases i with
  | clr => exact absurd rfl hclr
  | keyb b => exact absurd rfl (hkeyb b)
  | ctrb b => obtain ⟨-, rfl⟩ | ⟨-, -, rfl⟩ | ⟨-, -, rfl⟩ := exec_ctrb_cases h <;> rfl
  | go n => obtain ⟨-, rfl⟩ | ⟨-, -, rfl⟩ | ⟨-, -, -, -, rfl⟩ := exec_go_cases h <;> rfl
  | rdstat => obtain rfl := Host.Outcome.next.inj ((exec_rdstat s).symm.trans h); rfl
  | rdcode => obtain rfl := Host.Outcome.next.inj ((exec_rdcode s).symm.trans h); rfl

/-- Only `CLR` and `CTRB` write the counter buffer. -/
theorem exec_keeps_ctr {i : Instr} {s t : State} (h : exec i s = .next t) (hclr : i ≠ .clr) (hctrb : ∀ b, i ≠ .ctrb b) :
    t.ctr = s.ctr := by
  cases i with
  | clr => exact absurd rfl hclr
  | keyb b => obtain ⟨-, rfl⟩ | ⟨-, -, rfl⟩ | ⟨-, -, rfl⟩ := exec_keyb_cases h <;> rfl
  | ctrb b => exact absurd rfl (hctrb b)
  | go n => obtain ⟨-, rfl⟩ | ⟨-, -, rfl⟩ | ⟨-, -, -, -, rfl⟩ := exec_go_cases h <;> rfl
  | rdstat => obtain rfl := Host.Outcome.next.inj ((exec_rdstat s).symm.trans h); rfl
  | rdcode => obtain rfl := Host.Outcome.next.inj ((exec_rdcode s).symm.trans h); rfl

/-- `KEYB` leaves every byte of the key buffer but the one at its length (20_memory.md R31). -/
theorem exec_keyb_keeps_bytes {b : Byte} {s t : State} (h : exec (.keyb b) s = .next t) {a : Nat}
    (ha : a ≠ s.key.length) : memReadByte t.key a = memReadByte s.key a := by
  obtain ⟨-, rfl⟩ | ⟨-, -, rfl⟩ | ⟨-, -, rfl⟩ := exec_keyb_cases h
  · rfl
  · rfl
  · exact memReadByte_append_other s.key b ha

/-- `CTRB` leaves every byte of the counter buffer but the one at its length (20_memory.md R31). -/
theorem exec_ctrb_keeps_bytes {b : Byte} {s t : State} (h : exec (.ctrb b) s = .next t) {a : Nat}
    (ha : a ≠ s.ctr.length) : memReadByte t.ctr a = memReadByte s.ctr a := by
  obtain ⟨-, rfl⟩ | ⟨-, -, rfl⟩ | ⟨-, -, rfl⟩ := exec_ctrb_cases h
  · rfl
  · rfl
  · exact memReadByte_append_other s.ctr b ha

/-! Which flag a word raises. -/

/-- The flag a decoded word raises in a state, in the order of checks of 60_exceptions.md R134. -/
def raisedFlag? (d : Decoded) (s : State) : Option ErrFlag :=
  match d with
  | .illegal _ => some .ill
  | .command .clr => none
  | .command (.keyb _) =>
    if s.busy then some .busy else if s.key.length = Config.keyMax then some .keyOvf else none
  | .command (.ctrb _) => if s.busy then some .busy else if s.ctr.length = 8 then some .ctrOvf else none
  | .command (.go n) => if s.busy then some .busy else if seqError n s then some .seq else none
  | .command .rdstat => none
  | .command .rdcode => none

/-- A step that leaves `ERR` keeps each flag. -/
theorem flag_eq_or_none {s t : State} {f : ErrFlag} (h : t.err = s.err) :
    t.flag f = (s.flag f || decide ((none : Option ErrFlag) = some f)) := by
  rw [flag_congr h]
  simp

/-- A step that raises a flag sets it and keeps the others. -/
theorem flag_eq_or_some {s t : State} {f g : ErrFlag} (h : t.err = (s.raise g).err) :
    t.flag f = (s.flag f || decide (some g = some f)) := by
  rw [flag_congr h, flag_raise]
  simp

/-- After a command but `CLR` a flag is set exactly if it was or is the one raised. -/
theorem exec_flag {i : Instr} {s t : State} (h : exec i s = .next t) (hclr : i ≠ .clr) (f : ErrFlag) :
    t.flag f = (s.flag f || decide (raisedFlag? (.command i) s = some f)) := by
  cases i with
  | clr => exact absurd rfl hclr
  | keyb b =>
    obtain ⟨hbusy, rfl⟩ | ⟨hidle, hfull, rfl⟩ | ⟨hidle, hroom, rfl⟩ := exec_keyb_cases h
    · rw [raisedFlag?, if_pos hbusy]; exact flag_eq_or_some rfl
    · rw [raisedFlag?, hidle, if_neg Bool.false_ne_true, if_pos hfull]; exact flag_eq_or_some rfl
    · rw [raisedFlag?, hidle, if_neg Bool.false_ne_true, if_neg hroom]; exact flag_eq_or_none rfl
  | ctrb b =>
    obtain ⟨hbusy, rfl⟩ | ⟨hidle, hfull, rfl⟩ | ⟨hidle, hroom, rfl⟩ := exec_ctrb_cases h
    · rw [raisedFlag?, if_pos hbusy]; exact flag_eq_or_some rfl
    · rw [raisedFlag?, hidle, if_neg Bool.false_ne_true, if_pos hfull]; exact flag_eq_or_some rfl
    · rw [raisedFlag?, hidle, if_neg Bool.false_ne_true, if_neg hroom]; exact flag_eq_or_none rfl
  | go n =>
    obtain ⟨hbusy, rfl⟩ | ⟨hidle, hseq, rfl⟩ | ⟨hidle, herr, hctr, hkey, rfl⟩ := exec_go_cases h
    · rw [raisedFlag?, if_pos hbusy]; exact flag_eq_or_some rfl
    · rw [raisedFlag?, hidle, if_neg Bool.false_ne_true, if_pos hseq]; exact flag_eq_or_some rfl
    · have hready : ¬ seqError n s = true := by simp [seqError_iff, herr, hctr, hkey]
      rw [raisedFlag?, hidle, if_neg Bool.false_ne_true, if_neg hready]; exact flag_eq_or_none rfl
  | rdstat =>
    obtain rfl := Host.Outcome.next.inj ((exec_rdstat s).symm.trans h)
    exact flag_eq_or_none rfl
  | rdcode =>
    obtain rfl := Host.Outcome.next.inj ((exec_rdcode s).symm.trans h)
    exact flag_eq_or_none rfl

/-- The same of every word but `CLR`'s. -/
theorem hostStep_flag_iff {w : CmdWord} {s t : State} (h : hostStep w s = .next t) (hclr : decode w ≠ .command .clr)
    (f : ErrFlag) : t.flag f = true ↔ s.flag f = true ∨ raisedFlag? (decode w) s = some f := by
  have hflag : t.flag f = (s.flag f || decide (raisedFlag? (decode w) s = some f)) := by
    obtain ⟨why, hd, rfl⟩ | ⟨i, hd, he⟩ := hostStep_cases h
    · rw [hd]
      exact flag_eq_or_some rfl
    · rw [hd] at hclr ⊢
      exact exec_flag he (fun hi => hclr (congrArg _ hi)) f
  rw [hflag, Bool.or_eq_true, decide_eq_true_iff]

/-- Settles O21: the word raises a flag exactly on that flag's condition, read off the order of checks. -/
theorem flagsAreRaisedExactlyOnTheirConditions : Obligations.FlagsAreRaisedExactlyOnTheirConditions := by
  intro w s t h hclr
  simp only [hostStep_flag_iff h hclr, ← seqError_iff]
  cases hd : decode w with
  | illegal why => simp [raisedFlag?]
  | command i =>
    cases i with
    | clr => exact absurd hd hclr
    | keyb b => cases hbusy : s.busy <;> simp [raisedFlag?, hbusy]
    | ctrb b => cases hbusy : s.busy <;> simp [raisedFlag?, hbusy]
    | go n => cases hbusy : s.busy <;> simp [raisedFlag?, hbusy]
    | rdstat => simp [raisedFlag?]
    | rdcode => simp [raisedFlag?]

/-- A command leaves each flag but the one it raises. -/
theorem exec_keeps_other_flag {i : Instr} {s t : State} {f : ErrFlag} (h : exec i s = .next t) (hclr : i ≠ .clr)
    (hf : raisedFlag? (.command i) s ≠ some f) : t.flag f = s.flag f := by
  rw [exec_flag h hclr, decide_eq_false hf, Bool.or_false]

/-- Two checks in order raise no third flag. -/
theorem first_of_two_flags_ne {p q : Prop} [Decidable p] [Decidable q] {f g g' : ErrFlag} (hg : f ≠ g) (hg' : f ≠ g') :
    (if p then some g else if q then some g' else none) ≠ some f := by
  split_ifs
  · simpa using hg.symm
  · simpa using hg'.symm
  · simp

/-- Settles O20: each clause is a frame of the command, and the flags are those of the order of checks. -/
theorem commandsWriteOnlyTheirOwn : Obligations.CommandsWriteOnlyTheirOwn := by
  intro i s t h
  refine ⟨exec_inputs h, exec_keeps_key h, exec_keeps_ctr h, ?keyBytes, ?ctrBytes, exec_keeps_result h, ?goBusy, ?keybFlags,
    ?ctrbFlags, ?goFlags, ?reads, ?port⟩
  case keyBytes => rintro b rfl a; exact exec_keyb_keeps_bytes h
  case ctrBytes => rintro b rfl a; exact exec_ctrb_keeps_bytes h
  case goBusy =>
    rintro n rfl hbusy
    have hsame := exec_of_busy_sameComputation hbusy (by simp) h
    exact ⟨hsame.code, hsame.busy, hsame.done⟩
  case keybFlags =>
    rintro b rfl f hbusy hovf
    exact exec_keeps_other_flag h (by simp) (first_of_two_flags_ne hbusy hovf)
  case ctrbFlags =>
    rintro b rfl f hbusy hovf
    exact exec_keeps_other_flag h (by simp) (first_of_two_flags_ne hbusy hovf)
  case goFlags =>
    rintro n rfl f hbusy hseq
    exact exec_keeps_other_flag h (by simp) (first_of_two_flags_ne hbusy hseq)
  case reads =>
    rintro (rfl | rfl)
    · obtain rfl := Host.Outcome.next.inj ((exec_rdstat s).symm.trans h); rfl
    · obtain rfl := Host.Outcome.next.inj ((exec_rdcode s).symm.trans h); rfl
  case port =>
    intro hstat hcode
    obtain ⟨rfl, -⟩ | ⟨rfl, -⟩ | ⟨-, -, hport⟩ := exec_port h
    · exact absurd rfl hstat
    · exact absurd rfl hcode
    · exact hport

end Sys2Proof.Machine
end

section
/-! The opcode map and the illegal words (30_encoding.md R48, R49). -/
namespace Sys2Proof.Machine

/-- A mask of ones above zeros selects by the upper field. -/
theorem and_mask_eq_iff {m n : Nat} (w : BitVec (m + n)) (x : BitVec m) :
    w &&& (BitVec.allOnes m ++ 0#n) = x ++ 0#n ↔ w.extractLsb' n m = x := by
  rw [eq_comm, append_eq_iff, BitVec.extractLsb'_and, BitVec.extractLsb'_append_eq_left, BitVec.and_allOnes,
    BitVec.extractLsb'_and, BitVec.extractLsb'_append_eq_right, BitVec.and_zero]
  exact and_iff_left rfl

/-- The mask and match columns select a row's words by the field that the decode procedure tests. -/
theorem selects_keyb_iff (w : CmdWord) : selects .keyb w = true ↔ w.extractLsb' 8 8 = 0x20#8 :=
  beq_iff_eq.trans (and_mask_eq_iff (n := 8) w 0x20#8)

theorem selects_ctrb_iff (w : CmdWord) : selects .ctrb w = true ↔ w.extractLsb' 8 8 = 0x30#8 :=
  beq_iff_eq.trans (and_mask_eq_iff (n := 8) w 0x30#8)

theorem selects_go_iff (w : CmdWord) : selects .go w = true ↔ opField w = 0x4#4 :=
  beq_iff_eq.trans (and_mask_eq_iff (n := 12) w 0x4#4)

/-- A mask of ones only selects one word. -/
theorem selects_iff_eq {m : Mnemonic} (w : CmdWord) (hmask : maskBits m = BitVec.allOnes 16) :
    selects m w = true ↔ matchBits m = w := by
  rw [selects, beq_iff_eq, hmask, BitVec.and_allOnes, eq_comm]

/-- The decode procedure's test for a row is that row's mask and match (30_encoding.md R48, R50). -/
theorem selects_iff_decode (m : Mnemonic) (w : CmdWord) :
    selects m w = true ↔ ∃ i : Instr, i.mnemonic = m ∧ decode w = .command i := by
  constructor
  · intro h
    cases m with
    | clr => exact ⟨.clr, rfl, (decode_eq_command_iff w .clr).2 ((selects_iff_eq w rfl).1 h)⟩
    | keyb => exact ⟨_, rfl, decode_of_highByte_keyb ((selects_keyb_iff w).1 h)⟩
    | ctrb => exact ⟨_, rfl, decode_of_highByte_ctrb ((selects_ctrb_iff w).1 h)⟩
    | go => exact ⟨_, rfl, decode_of_opField_go ((selects_go_iff w).1 h)⟩
    | rdstat => exact ⟨.rdstat, rfl, (decode_eq_command_iff w .rdstat).2 ((selects_iff_eq w rfl).1 h)⟩
    | rdcode => exact ⟨.rdcode, rfl, (decode_eq_command_iff w .rdcode).2 ((selects_iff_eq w rfl).1 h)⟩
  · rintro ⟨i, rfl, hd⟩
    obtain rfl := encode_of_decode hd
    cases i with
    | clr => exact Laws.Opcode.clr.2
    | keyb b => exact (Laws.Opcode.keyb b).2
    | ctrb b => exact (Laws.Opcode.ctrb b).2
    | go n => exact (Laws.Opcode.go n).2
    | rdstat => exact Laws.Opcode.rdstat.2
    | rdcode => exact Laws.Opcode.rdcode.2

/-- Settles O2: a row is selected exactly by the words that decode to it, and a word decodes to one command. -/
theorem opcodeMapSelectsWhatDecodes : Obligations.OpcodeMapSelectsWhatDecodes := by
  refine fun w => ⟨fun m => selects_iff_decode m w, fun m m' h h' => ?_⟩
  obtain ⟨i, rfl, hi⟩ := (selects_iff_decode m w).1 h
  obtain ⟨j, rfl, hj⟩ := (selects_iff_decode m' w).1 h'
  obtain rfl : i = j := by simpa using hi.symm.trans hj
  rfl

/-- A word is illegal exactly if no test of the decode procedure accepts it (30_encoding.md R50). -/
theorem decode_illegal_iff (w : CmdWord) :
    (∃ why, decode w = .illegal why) ↔
      ¬ (w = 0x1000#16 ∨ w.extractLsb' 8 8 = 0x20#8 ∨ w.extractLsb' 8 8 = 0x30#8 ∨ opField w = 0x4#4 ∨
        w = 0x5000#16 ∨ w = 0x6000#16) := by
  unfold decode
  split_ifs with hclr hkeyb hctrb hgo hrdstat hrdcode <;> simp_all

/-- A word of format Z is its opcode and twelve zero bits (30_encoding.md R46). -/
theorem eq_formatZ_iff (w : CmdWord) (op : BitVec 4) :
    w = formatZ op ↔ opField w = op ∧ w.extractLsb' 0 12 = 0#12 :=
  eq_comm.trans (append_eq_iff op 0#12 w)

/-- The high byte of a word of format B is its opcode and four zero bits (30_encoding.md R46). -/
theorem highByte_eq_iff (w : CmdWord) (op : BitVec 4) :
    w.extractLsb' 8 8 = op ++ 0#4 ↔ opField w = op ∧ w.extractLsb' 8 4 = 0#4 := by
  rw [← opField_append_hiField, eq_comm, append_eq_iff, BitVec.extractLsb'_append_eq_left,
    BitVec.extractLsb'_append_eq_right]
  rfl

/-- Settles O3: each test of the decode procedure is an opcode and a field of zeros, so the words that fail all of them are
those of the other opcodes and those with a bit set in such a field. -/
theorem illegalWordsAreExactlyTheListed : Obligations.IllegalWordsAreExactlyTheListed := by
  intro w
  rw [decode_illegal_iff]
  have hclr : w = 0x1000#16 ↔ _ := eq_formatZ_iff w 0x1#4
  have hrdstat : w = 0x5000#16 ↔ _ := eq_formatZ_iff w 0x5#4
  have hrdcode : w = 0x6000#16 ↔ _ := eq_formatZ_iff w 0x6#4
  have hkeyb : w.extractLsb' 8 8 = 0x20#8 ↔ _ := highByte_eq_iff w 0x2#4
  have hctrb : w.extractLsb' 8 8 = 0x30#8 ↔ _ := highByte_eq_iff w 0x3#4
  rw [hclr, hkeyb, hctrb, hrdstat, hrdcode]
  generalize opField w = op
  by_cases hlow : w.extractLsb' 0 12 = 0#12 <;> by_cases hhigh : w.extractLsb' 8 4 = 0#4 <;>
    simp only [hlow, hhigh, and_true, and_false, ne_eq, not_true_eq_false, not_false_eq_true, or_false, false_or]
  all_goals
    revert op
    decide

/-- Settles O4: the ten words are decoded. -/
theorem sampleWordsDecodeRight : Obligations.SampleWordsDecodeRight := by
  unfold Obligations.SampleWordsDecodeRight
  decide

end Sys2Proof.Machine
end

section
/-! Big-endian fields as byte sequences and back, and the expansions of the pseudo-instructions (20_memory.md R33,
30_encoding.md R54). -/
namespace Sys2Proof.Machine

/-- A field of a field. -/
theorem extractLsb'_extractLsb' {m : Nat} (v : BitVec m) (i j : Nat) {len len' : Nat} (h : j + len' ≤ len) :
    (v.extractLsb' i len).extractLsb' j len' = v.extractLsb' (i + j) len' := by
  refine BitVec.eq_of_getLsbD_eq fun k hk => ?_
  have hin : j + k < len := by omega
  simp [hk, hin, Nat.add_assoc]

/-- The eight bytes of a counter, most significant first (20_memory.md R33). -/
theorem be8_eq (c : BitVec 64) :
    be8 c = [c.extractLsb' 56 8, c.extractLsb' 48 8, c.extractLsb' 40 8, c.extractLsb' 32 8, c.extractLsb' 24 8,
      c.extractLsb' 16 8, c.extractLsb' 8 8, c.extractLsb' 0 8] := by
  simp (disch := decide) only [be8, be4, extractLsb'_extractLsb', List.cons_append, List.nil_append, Nat.reduceAdd]

theorem fromBE_lt (x : Bytes) : fromBE x < 256 ^ x.length := by
  induction x using List.reverseRecOn with
  | nil => simp
  | append_singleton x b ih =>
    have hb : b.toNat < 256 := b.isLt
    rw [fromBE_append_byte, List.length_append, List.length_singleton, pow_succ]
    omega

/-- Byte sequences of one length are determined by their number. -/
theorem eq_of_fromBE_eq {x y : Bytes} (hlen : x.length = y.length) (h : fromBE x = fromBE y) : x = y := by
  induction x using List.reverseRecOn generalizing y with
  | nil => exact (List.length_eq_zero_iff.1 hlen.symm).symm
  | append_singleton x b ih =>
    obtain rfl | ⟨y, c, rfl⟩ := y.eq_nil_or_concat'
    · simp at hlen
    · have hb : b.toNat < 256 := b.isLt
      have hc : c.toNat < 256 := c.isLt
      rw [fromBE_append_byte, fromBE_append_byte] at h
      obtain rfl : x = y := ih (by simpa using hlen) (by omega)
      obtain rfl : b = c := BitVec.eq_of_toNat_eq (by omega)
      rfl

/-- Eight bytes are those of the counter that is their number. -/
theorem be8_fromBE {x : Bytes} (hx : x.length = 8) : be8 (BitVec.ofNat 64 (fromBE x)) = x := by
  have hlt : fromBE x < 2 ^ 64 := by
    have := fromBE_lt x
    rwa [hx] at this
  refine eq_of_fromBE_eq (by rw [be8_length, hx]) ?_
  rw [fromBE_be8, BitVec.toNat_ofNat, Nat.mod_eq_of_lt hlt]

/-- Settles O6: the bytes of a counter and the number of eight bytes are inverse. -/
theorem counterBytesAreBigEndian : Obligations.CounterBytesAreBigEndian :=
  ⟨fun c => congrArg (List.map Instr.ctrb) (be8_eq c), fromBE_be8, fun _ => be8_fromBE⟩

/-- Settles O52: each expansion by its definition; the length of a key that `GO` can name is its operand. -/
theorem pseudoInstructionsExpandAsStated : Obligations.PseudoInstructionsExpandAsStated := by
  refine ⟨fun bytes => ?ldkey, fun text hascii => ?ldkeys, fun c => ?ldctr, rfl, fun k c hk => ?hotp, fun k c hk => ?tooLong⟩
  case ldkey => simp [Pseudo.expand, ldkey]
  case ldkeys =>
    have hall : text.all (fun c => decide (c.toNat < 128)) = true := by simpa using hascii
    simp [Pseudo.expand, ldkeys, asciiBytes?, hall, ldkey]
  case ldctr => simp [Pseudo.expand, ldctr, be8_eq]
  case hotp =>
    refine ⟨BitVec.ofNat 12 k.length, ?_, ?_⟩
    · rw [BitVec.toNat_ofNat, Nat.mod_eq_of_lt (by omega)]
    · rw [Pseudo.expand, hotpTransaction, if_pos (by omega)]
      simp [hotpStart, ldkey, ldctr, Function.comp_def]
  case tooLong => rw [Pseudo.expand, hotpTransaction, if_neg (by omega)]

end Sys2Proof.Machine
end

section
/-! The range of a code, the digest's bytes and the two blocks of each hash (41_hmac_sha1.md R86, R89, 44_engine.md R125). -/
namespace Sys2Proof.Machine

/-- Settles O41: a code is a remainder by the modulus. -/
theorem hotpIsBelowOneMillion : Obligations.HotpIsBelowOneMillion := fun _ _ => codeOf_le _ _

theorem be4_getD (w : Word32) {k : Nat} (hk : k < 4) : (be4 w).getD k 0#8 = w.extractLsb' (24 - 8 * k) 8 := by
  match k, hk with
  | 0, _ | 1, _ | 2, _ | 3, _ => rfl

/-- Byte `4i + k` of a sequence of words is byte `k` of word `i`. -/
theorem flatMap_be4_getD {ws : List Word32} {i k : Nat} (hi : i < ws.length) (hk : k < 4) :
    (ws.flatMap be4).getD (4 * i + k) 0#8 = (ws.getD i 0#32).extractLsb' (24 - 8 * k) 8 := by
  induction ws generalizing i with
  | nil => simp at hi
  | cons w ws ih =>
    rw [List.flatMap_cons]
    cases i with
    | zero =>
      rw [List.getD_append _ _ _ _ (by simpa using hk), Nat.mul_zero, Nat.zero_add, be4_getD w hk]
      rfl
    | succ i =>
      rw [List.getD_append_right _ _ _ _ (by simp; omega), be4_length, show 4 * (i + 1) + k - 4 = 4 * i + k by omega,
        ih (Nat.lt_of_succ_lt_succ hi)]
      rfl

/-- The words of a chaining value, in order (41_hmac_sha1.md R85). -/
def Chain.words (h : Chain) : List Word32 := [h.a, h.b, h.c, h.d, h.e]

theorem Chain.digest_toList (h : Chain) : h.digest.toList = h.words.flatMap be4 := by
  simp [Chain.digest, Chain.bytes, Chain.words]

/-- Settles O45: the digest is the words of the final chaining value, each big-endian. -/
theorem digestBytesAreBigEndian : Obligations.DigestBytesAreBigEndian := by
  intro x i k hi hk
  rw [sha1, Chain.digest_toList]
  exact ⟨flatMap_be4_getD (ws := (sha1Chain x).words) hi hk,
    flatMap_be4_getD (ws := (sha1Chain x).words) (i := 4) (k := 3) (Nat.lt_add_one 4) (by decide)⟩

/-- A message of a whole block and at most 55 bytes more is hashed in two compressions (41_hmac_sha1.md R82, R86). -/
theorem sha1_two_blocks {p m : Bytes} (hp : p.length = 64) (hm : m.length ≤ 55) :
    sha1 (p ++ m) = (compress (compress sha1IV p)
      (m ++ [0x80#8] ++ List.replicate (55 - m.length) 0x00#8 ++ be8 (BitVec.ofNat 64 (8 * (64 + m.length))))).digest := by
  have hlen : (p ++ m).length = 64 + m.length := by rw [List.length_append, hp]
  have hcount : blockCount (64 + m.length) = 2 := by unfold blockCount; omega
  have hzeros : padZeros (64 + m.length) = 55 - m.length := by unfold padZeros; omega
  have hpad : pad (p ++ m) =
      p ++ (m ++ [0x80#8] ++ List.replicate (55 - m.length) 0x00#8 ++ be8 (BitVec.ofNat 64 (8 * (64 + m.length)))) := by
    rw [pad, hlen, hzeros]
    simp only [List.append_assoc]
  rw [sha1, sha1Chain, hlen, hcount, hpad]
  generalize hq : m ++ [0x80#8] ++ List.replicate (55 - m.length) 0x00#8 ++ be8 (BitVec.ofNat 64 (8 * (64 + m.length))) = q
  have hqlen : q.length = 64 := by
    rw [← hq]
    simp
    omega
  have hblocks : blocks 2 (p ++ q) = [p, q] := by
    simp only [blocks]
    rw [List.take_left' hp, List.drop_left' hp, ← hqlen, List.take_length]
  rw [hblocks]
  rfl

/-- Settles O47: each of the two hashes is of a key block, which is one whole block, and of a short message. -/
theorem hmacIsFourCompressions : Obligations.HmacIsFourCompressions := by
  intro k m hm
  have hblock (p : Byte) : (xorPad p (keyBlock k)).length = 64 := by rw [xorPad, List.length_map, keyBlock_length]
  have hinner : (hmacInner k m).toList.length = 20 := Vector.length_toList
  constructor
  · rw [hmacInner, sha1_two_blocks (hblock _) (by omega), hm]
    rfl
  · rw [hmacSha1, sha1_two_blocks (hblock _) (by omega), hinner]
    rfl

end Sys2Proof.Machine
end

section
/-! Several blocks side by side (60_exceptions.md R140). -/
namespace Sys2Proof.Machine

/-- Settles O37: the list is written at the one place whose block took the step. -/
theorem instancesShareNothing : Obligations.InstancesShareNothing := by
  intro k sys sys' h
  unfold stepInstance at h
  cases hk : sys[k]? with
  | none =>
    rw [hk] at h
    obtain rfl := Host.Outcome.next.inj h
    exact ⟨fun _ _ => rfl, fun _ hs => nomatch hs⟩
  | some s =>
    obtain ⟨t, ht⟩ := step_total s
    rw [hk] at h
    simp only [ht] at h
    obtain rfl := Host.Outcome.next.inj h
    refine ⟨fun j hj => List.getElem?_set_ne hj.symm, fun s' hs' => ⟨t, ?_, ?_⟩⟩
    · rwa [← Option.some.inj hs']
    · exact List.getElem?_set_self (List.getElem?_eq_some_iff.1 hk).1

end Sys2Proof.Machine
end

section
/-! A transaction, edge by edge: the loading part, the `GO`, the waiting part and the read (44_engine.md R123). -/
namespace Sys2Proof.Machine

/-! Loading. -/

/-- A block that loads: idle, no flag set, with these bytes in its buffers. -/
structure Loaded (k c : Bytes) (s : State) : Prop where
  key : s.key = k
  ctr : s.ctr = c
  err : s.err = 0#5
  busy : s.busy = false

/-- The key bytes of an edge, at most one. -/
theorem keyBytes_cons (e : Edge) (es : List Edge) : keyBytes (e :: es) = keyBytes [e] ++ keyBytes es :=
  List.filterMap_append (l := [e])

theorem ctrBytes_cons (e : Edge) (es : List Edge) : ctrBytes (e :: es) = ctrBytes [e] ++ ctrBytes es :=
  List.filterMap_append (l := [e])

/-- What an edge of the loading part decodes to. -/
theorem Edge.loads_cases {e : Edge} (h : e.loads = true) :
    e.rst = false ∧ (e.decoded? = none ∨ (∃ b, e.decoded? = some (.command (.keyb b))) ∨
      (∃ b, e.decoded? = some (.command (.ctrb b))) ∨ e.decoded? = some (.command .rdstat) ∨
      e.decoded? = some (.command .rdcode)) := by
  unfold Edge.loads at h
  rw [Bool.and_eq_true, Bool.not_eq_true'] at h
  obtain ⟨hrst, hd⟩ := h
  refine ⟨hrst, ?_⟩
  split at hd <;> simp_all

/-- The host's part of an edge that executes nothing. -/
theorem hostPhase_of_decoded_none {e : Edge} (s : State) (h : e.decoded? = none) : hostPhase e s = .next s.noResponse := by
  refine hostPhase_of_not_valid s (Bool.eq_false_of_not_eq_true fun hvalid => ?_)
  simp [Edge.decoded?, hvalid] at h

/-- The host's part of an edge that executes a command. -/
theorem hostPhase_of_decoded_command {e : Edge} {i : Instr} (s : State) (h : e.decoded? = some (.command i)) :
    hostPhase e s = exec i s := by
  obtain ⟨hvalid, hd⟩ : e.cmdValid = true ∧ decode e.cmd = .command i := by simpa [Edge.decoded?] using h
  rw [hostPhase_of_valid s hvalid, hostStep_of_command s hd]

/-- On an idle block the host's part is the whole of an edge without a reset. -/
theorem clockEdge_of_idle_of_hostPhase {e : Edge} {s t : State} (hidle : s.busy = false) (hrst : e.rst = false)
    (h : hostPhase e s = .next t) : clockEdge e s = .next t := by
  rw [clockEdge_of_hostPhase hrst h, hidle, enginePhase_of_idle]

theorem Loaded.noResponse {k c : Bytes} {s : State} (h : Loaded k c s) : Loaded k c s.noResponse := { h with }

theorem Loaded.respond {k c : Bytes} {s : State} (h : Loaded k c s) (w : Word32) : Loaded k c (s.respond w) := { h with }

theorem Loaded.appendKey {k c : Bytes} {s : State} (h : Loaded k c s) (b : Byte) : Loaded (k ++ [b]) c (s.appendKey b) :=
  { h with key := by rw [State.appendKey_key, h.key] }

theorem Loaded.appendCtr {k c : Bytes} {s : State} (h : Loaded k c s) (b : Byte) : Loaded k (c ++ [b]) (s.appendCtr b) :=
  { h with ctr := by rw [State.appendCtr_ctr, h.ctr] }

/-- An edge of the loading part appends its byte, where there is room. -/
theorem clockEdge_loads {e : Edge} {k c : Bytes} {s : State} (hs : Loaded k c s) (he : e.loads = true)
    (hkey : (k ++ keyBytes [e]).length ≤ Config.keyMax) (hctr : (c ++ ctrBytes [e]).length ≤ 8) :
    ∃ t, clockEdge e s = .next t ∧ Loaded (k ++ keyBytes [e]) (c ++ ctrBytes [e]) t := by
  obtain ⟨hrst, hd | ⟨b, hd⟩ | ⟨b, hd⟩ | hd | hd⟩ := Edge.loads_cases he
  all_goals
    simp only [keyBytes, ctrBytes, List.filterMap_cons, List.filterMap_nil, Edge.keyByte?, Edge.ctrByte?, hd,
      List.append_nil] at hkey hctr ⊢
  · exact ⟨_, clockEdge_of_idle_of_hostPhase hs.busy hrst (hostPhase_of_decoded_none s hd), hs.noResponse⟩
  · have hroom : s.key.length ≠ Config.keyMax := by
      rw [hs.key]
      simp at hkey
      omega
    have hhost := (hostPhase_of_decoded_command s hd).trans (exec_keyb_of_room b hs.busy hroom)
    exact ⟨_, clockEdge_of_idle_of_hostPhase hs.busy hrst hhost, (hs.appendKey b).noResponse⟩
  · have hroom : s.ctr.length ≠ 8 := by
      rw [hs.ctr]
      simp at hctr
      omega
    have hhost := (hostPhase_of_decoded_command s hd).trans (exec_ctrb_of_room b hs.busy hroom)
    exact ⟨_, clockEdge_of_idle_of_hostPhase hs.busy hrst hhost, (hs.appendCtr b).noResponse⟩
  · have hhost := (hostPhase_of_decoded_command s hd).trans (exec_rdstat s)
    exact ⟨_, clockEdge_of_idle_of_hostPhase hs.busy hrst hhost, hs.respond _⟩
  · have hhost := (hostPhase_of_decoded_command s hd).trans (exec_rdcode s)
    exact ⟨_, clockEdge_of_idle_of_hostPhase hs.busy hrst hhost, hs.respond _⟩

/-- The loading part loads its bytes in order (44_engine.md R123). -/
theorem edgeRun_loads {es : List Edge} {k c : Bytes} {s : State} (hs : Loaded k c s) (hes : ∀ e ∈ es, e.loads = true)
    (hkey : (k ++ keyBytes es).length ≤ Config.keyMax) (hctr : (c ++ ctrBytes es).length ≤ 8) :
    ∃ t, EdgeRun es s t ∧ Loaded (k ++ keyBytes es) (c ++ ctrBytes es) t := by
  induction es generalizing k c s with
  | nil => exact ⟨s, .nil s, by simpa [keyBytes, ctrBytes] using hs⟩
  | cons e es ih =>
    rw [keyBytes_cons, ← List.append_assoc] at hkey ⊢
    rw [ctrBytes_cons, ← List.append_assoc] at hctr ⊢
    obtain ⟨u, hu, hload⟩ := clockEdge_loads hs (hes e List.mem_cons_self)
      (le_trans (by simp) hkey) (le_trans (by simp) hctr)
    obtain ⟨t, ht, hload'⟩ := ih hload (fun e' he' => hes e' (List.mem_cons_of_mem e he')) hkey hctr
    exact ⟨t, .cons hu ht, hload'⟩

/-! Starting. -/

/-- A block that runs a computation on these bytes, with no code readable (40_host_commands.md R64). -/
structure Running (k c : Bytes) (s : State) : Prop where
  key : s.key = k
  ctr : s.ctr = c
  code : s.code = 0#20
  err : s.err = 0#5
  busy : s.busy = true
  done : s.done = false

/-- The operand of `GO` names every length a key may have (10_state.md R12). -/
theorem goOperand_toNat {k : Bytes} (hk : k.length ≤ Config.keyMax) : (BitVec.ofNat 12 k.length).toNat = k.length := by
  have hmax := keyMax_range.2
  rw [BitVec.toNat_ofNat, Nat.mod_eq_of_lt (by omega)]

theorem decoded_presenting (i : Instr) (due : Bool) : (Edge.presenting i due).decoded? = some (.command i) :=
  congrArg some (decode_encode i)

/-- The `GO` of a transaction is accepted, and does not complete at its own edge. -/
theorem clockEdge_go {k c : Bytes} {s : State} (hs : Loaded k c s) (hk : k.length ≤ Config.keyMax) (hc : c.length = 8)
    (due : Bool) :
    ∃ t, clockEdge (Edge.presenting (.go (BitVec.ofNat 12 k.length)) due) s = .next t ∧ Running k c t := by
  have hready : ¬ seqError (BitVec.ofNat 12 k.length) s = true := by
    simp [seqError_iff, hs.err, hs.ctr, hs.key, hc, goOperand_toNat hk]
  have hhost := (hostPhase_of_decoded_command s (decoded_presenting _ due)).trans (exec_go_of_ready hs.busy hready)
  exact ⟨_, clockEdge_of_idle_of_hostPhase hs.busy rfl hhost, hs.key, hs.ctr, rfl, hs.err, rfl, rfl⟩

/-! Waiting. -/

/-- A finished computation waits with its code. -/
theorem EdgeRun.keeps_done {es : List Edge} {s t : State} (h : EdgeRun es s t) (hidle : s.busy = false)
    (hes : ∀ e ∈ es, e.clears = false ∧ e.starts = false) : t.done = s.done ∧ t.code = s.code := by
  induction h with
  | nil => exact ⟨rfl, rfl⟩
  | cons he _ ih =>
    obtain ⟨hclr, hgo⟩ := hes _ List.mem_cons_self
    obtain ⟨hbusy, hdone, hcode⟩ := clockEdge_of_idle_keeps_done hidle hclr hgo he
    obtain ⟨hdone', hcode'⟩ := ih hbusy fun e' he' => hes e' (List.mem_cons_of_mem _ he')
    exact ⟨hdone'.trans hdone, hcode'.trans hcode⟩

/-- A computation that is not completed waits with its buffers. -/
theorem EdgeRun.keeps_computation {es : List Edge} {s t : State} (h : EdgeRun es s t) (hbusy : s.busy = true)
    (hes : ∀ e ∈ es, e.clears = false) (hdue : ∀ e ∈ es, e.due = false) : SameComputation s t := by
  induction h with
  | nil => exact ⟨rfl, rfl, rfl, rfl, rfl⟩
  | cons he _ ih =>
    obtain ⟨-, hsame⟩ | ⟨hdue', -⟩ := clockEdge_of_busy hbusy (hes _ List.mem_cons_self) he
    · exact hsame.trans (ih (hsame.busy.trans hbusy) (fun e' he' => hes e' (List.mem_cons_of_mem _ he'))
        fun e' he' => hdue e' (List.mem_cons_of_mem _ he'))
    · exact absurd ((hdue _ List.mem_cons_self).symm.trans hdue') Bool.false_ne_true

/-- A computation that is completed at one of the edges leaves its code. -/
theorem EdgeRun.done_of_due {es : List Edge} {s t : State} (h : EdgeRun es s t) (hbusy : s.busy = true)
    (hes : ∀ e ∈ es, e.clears = false ∧ e.starts = false) (hdue : ∃ e ∈ es, e.due = true) :
    t.done = true ∧ t.code = codeOf s.key (memRead s.ctr 0 8) := by
  induction h with
  | nil => simp at hdue
  | @cons e es s u t he hrest ih =>
    have hes' := fun e' he' => hes e' (List.mem_cons_of_mem _ he')
    obtain ⟨hnot, hsame⟩ | ⟨-, hcomp⟩ := clockEdge_of_busy hbusy (hes _ List.mem_cons_self).1 he
    · have hdue' : ∃ e ∈ es, e.due = true := by simpa [hnot] using hdue
      rw [← hsame.key, ← hsame.ctr]
      exact ih (hsame.busy.trans hbusy) hes' hdue'
    · obtain ⟨hdone, hcode⟩ := hrest.keeps_done hcomp.busy hes'
      exact ⟨hdone.trans hcomp.done, hcode.trans hcomp.code⟩

/-! Reading. -/

/-- An `RDCODE` edge answers the `CODEWORD` of the state before it. -/
theorem clockEdge_rdcode (due : Bool) (s : State) :
    ∃ t, clockEdge (Edge.presenting .rdcode due) s = .next t ∧ t.rspValid = true ∧ t.rsp = s.codeword :=
  ⟨_, clockEdge_presenting due (decode_encode .rdcode) (exec_rdcode s), by simp, by simp⟩

/-- Without a result and without a code, `CODEWORD` is zero (30_encoding.md R52). -/
theorem codeword_of_no_code {s : State} (hdone : s.done = false) (hcode : s.code = 0#20) : s.codeword = 0#32 := by
  rw [codeword_eq_or, hdone, hcode]
  decide

/-- Settles O35: the loading part fills the buffers, the `GO` starts, and the waiting part leaves the code exactly if it
completes the computation. -/
theorem transactionReturnsTheHotpCode : Obligations.TransactionReturnsTheHotpCode := by
  intro s load wait rest c dueAtGo dueAtRead hkey hctr herr hidle hload hmax hbytes hwait hin
  obtain ⟨s₁, hrun₁, hs₁⟩ := edgeRun_loads ⟨hkey, hctr, herr, hidle⟩ hload hmax (by rw [hbytes]; simp)
  rw [hbytes, List.nil_append, List.nil_append] at hs₁
  obtain ⟨s₂, hgo, hs₂⟩ := clockEdge_go hs₁ hmax (be8_length c) dueAtGo
  obtain ⟨s₃, hrun₃⟩ := EdgeRun.total wait s₂
  obtain ⟨t, hread, hvalid, hrsp⟩ := clockEdge_rdcode dueAtRead s₃
  have hrun := ((hrun₁.append (.singleton hgo)).append hrun₃).append (.singleton hread)
  refine ⟨{ t with inputs := rest }, ?run, hvalid, fun hdue => ?code, fun hdue => ?zero⟩
  case run =>
    have hrun := hrun.run_eq rest
    rw [← hin] at hrun
    rw [← hrun]
    congr 1
    simp
    omega
  case code =>
    obtain ⟨hdone, hcode⟩ := hrun₃.done_of_due hs₂.busy hwait hdue
    rw [hs₂.key, hs₂.ctr, memRead_of_length (be8_length c)] at hcode
    rw [hrsp, codeword_of_done hdone, hcode]
    rfl
  case zero =>
    have hsame := hrun₃.keeps_computation hs₂.busy (fun e he => (hwait e he).1) hdue
    rw [hrsp, codeword_of_no_code (hsame.done.trans hs₂.done) (hsame.code.trans hs₂.code)]

end Sys2Proof.Machine
end

section
/-! The host's loop `POLL` and the pseudo-instruction `HOTP`, carried out (30_encoding.md R54, 70_reset_and_hazards.md R154). -/
namespace Sys2Proof.Machine

/-! The loop. -/

/-- What `POLL` leaves, by its turns: none are left, the last one finds the block idle, another finds it busy. -/
inductive PollRun : List Bool → State → Performed → Prop where
  | spent (s : State) : PollRun [] s ⟨[], [], s, false⟩
  | idle (due : Bool) (dues : List Bool) {s : State} : s.busy = false →
      PollRun (due :: dues) s ⟨[.rdstat], dues, s.respond s.status, true⟩
  | busy (due : Bool) {dues : List Bool} {s : State} {r : Performed} : s.busy = true →
      PollRun dues (enginePhase true due (s.respond s.status)) r → PollRun (due :: dues) s (r.after [.rdstat])

theorem PollRun.poll_eq {dues : List Bool} {s : State} {r : Performed} (h : PollRun dues s r) : poll dues s = .next r := by
  induction h with
  | spent s => rfl
  | idle due dues hidle => exact poll_cons_idle due dues hidle
  | busy due hbusy _ ih => exact poll_cons_busy due _ hbusy ih

theorem exists_pollRun (dues : List Bool) (s : State) : ∃ r, PollRun dues s r := by
  induction dues generalizing s with
  | nil => exact ⟨_, .spent s⟩
  | cons due dues ih =>
    cases hb : s.busy with
    | false => exact ⟨_, .idle due dues hb⟩
    | true =>
      obtain ⟨r, hr⟩ := ih (enginePhase true due (s.respond s.status))
      exact ⟨_, .busy due hb hr⟩

/-- The loop issues only `RDSTAT`. -/
theorem PollRun.commands_eq {dues : List Bool} {s : State} {r : Performed} (h : PollRun dues s r) :
    r.commands = List.replicate r.commands.length .rdstat := by
  induction h with
  | spent => rfl
  | idle => rfl
  | busy due _ _ ih =>
    rw [Performed.after_commands, List.singleton_append, List.length_cons, List.replicate_succ, ← ih]

/-- It uses one due bit a turn. -/
theorem PollRun.length_le {dues : List Bool} {s : State} {r : Performed} (h : PollRun dues s r) :
    r.commands.length ≤ dues.length := by
  induction h with
  | spent => exact le_rfl
  | idle due dues => simp
  | busy due _ _ ih => simpa using ih

theorem PollRun.dues_eq {dues : List Bool} {s : State} {r : Performed} (h : PollRun dues s r) :
    r.dues = dues.drop r.commands.length := by
  induction h with
  | spent => rfl
  | idle => rfl
  | busy due _ _ ih => simpa using ih

/-- What it leaves is what its `RDSTAT` edges leave. -/
theorem PollRun.edgeRun {dues : List Bool} {s : State} {r : Performed} (h : PollRun dues s r) :
    EdgeRun ((dues.take r.commands.length).map (Edge.presenting .rdstat)) s r.state := by
  induction h with
  | spent s => exact .nil s
  | idle due dues hidle =>
    refine .singleton ((clockEdge_rdstat due _).trans ?_)
    rw [hidle, enginePhase_of_idle]
  | busy due hbusy _ ih =>
    refine .cons ((clockEdge_rdstat due _).trans ?_) ih
    rw [hbusy]

/-- If it ends, its last response has `BUSY = 0`. -/
theorem PollRun.response_of_ended {dues : List Bool} {s : State} {r : Performed} (h : PollRun dues s r)
    (he : r.ended = true) : 1 ≤ r.commands.length ∧ r.state.rspValid = true ∧ r.state.rsp.getLsbD 0 = false := by
  induction h with
  | spent => exact absurd he Bool.false_ne_true
  | @idle due dues s hidle => exact ⟨le_rfl, rfl, (status_bit_busy s).trans hidle⟩
  | busy due _ _ ih => exact ⟨by simp, (ih he).2⟩

/-- If not, its due bits are used up. -/
theorem PollRun.length_of_not_ended {dues : List Bool} {s : State} {r : Performed} (h : PollRun dues s r)
    (he : r.ended = false) : r.commands.length = dues.length := by
  induction h with
  | spent => rfl
  | idle => exact absurd he.symm Bool.false_ne_true
  | busy due _ _ ih => simpa using ih he

/-- With the due bits of fewer turns it does not end, and its last response has `BUSY = 1`. -/
theorem PollRun.busy_before {dues : List Bool} {s : State} {r : Performed} (h : PollRun dues s r) {j : Nat} (hj : 1 ≤ j)
    (hlt : j < r.commands.length ∨ (j = r.commands.length ∧ r.ended = false)) :
    ∃ q, PollRun (dues.take j) s q ∧ q.ended = false ∧ q.state.rspValid = true ∧ q.state.rsp.getLsbD 0 = true := by
  induction h generalizing j with
  | spent => simp at hlt; omega
  | idle => simp at hlt; omega
  | @busy due dues s r hbusy _ ih =>
    obtain rfl | hj' := Nat.eq_or_lt_of_le hj
    · refine ⟨_, .busy due hbusy (.spent _), rfl, ?_, ?_⟩
      · simp
      · simp [status_bit_busy, hbusy]
    · obtain ⟨i, rfl⟩ := Nat.exists_eq_add_of_le' hj
      obtain ⟨q, hq, hended, hresponse⟩ := ih (j := i) (by omega) (by simpa using hlt)
      exact ⟨_, .busy due hbusy hq, hended, hresponse⟩

/-- On an idle block the loop ends at its first turn and leaves the architectural state. -/
theorem PollRun.of_idle {dues : List Bool} {s : State} {r : Performed} (h : PollRun dues s r) (hidle : s.busy = false)
    (hdues : dues ≠ []) : r.ended = true ∧ r.state.arch = s.arch := by
  cases h with
  | spent => exact absurd rfl hdues
  | idle => exact ⟨rfl, rfl⟩
  | busy _ hbusy _ => exact absurd (hidle.symm.trans hbusy) Bool.false_ne_true

/-- A computation that completes before the last due bit ends the loop, and nothing else happens to the block. -/
theorem PollRun.of_busy {dues : List Bool} {s : State} {r : Performed} (h : PollRun dues s r) (hbusy : s.busy = true)
    (hdue : ∃ i : Nat, dues[i]? = some true ∧ i + 1 < dues.length) :
    r.ended = true ∧ r.state.arch = s.engineComplete.arch := by
  induction h with
  | spent => simp at hdue
  | idle due dues hidle => exact absurd (hidle.symm.trans hbusy) Bool.false_ne_true
  | @busy due dues s r _ hr ih =>
    obtain ⟨i, hi, hlt⟩ := hdue
    cases due with
    | true =>
      have hdues : dues ≠ [] := by
        rintro rfl
        simp at hlt
      rw [enginePhase_of_due (s := s.respond s.status) hbusy] at hr
      exact hr.of_idle rfl hdues
    | false =>
      rw [enginePhase_not_due] at ih
      cases i with
      | zero => simp at hi
      | succ i => exact ih hbusy ⟨i, by simpa using hi, by simpa using hlt⟩

/-- Settles O53: each clause by the turns of the loop. -/
theorem pollRepeatsUntilIdle : Obligations.PollRepeatsUntilIdle := by
  intro dues s
  obtain ⟨r, hr⟩ := exists_pollRun dues s
  refine ⟨r, hr.poll_eq, hr.commands_eq, hr.length_le, hr.dues_eq, ?run, hr.response_of_ended, hr.length_of_not_ended,
    fun j hj hlt => ?before, fun hidle hbusy => ?ends⟩
  case run =>
    have hrun := hr.edgeRun.run_eq s.inputs
    rw [List.length_map, List.length_take_of_le hr.length_le] at hrun
    rw [hrun, ← hr.edgeRun.inputs]
  case before =>
    obtain ⟨q, hq, hresponse⟩ := hr.busy_before hj hlt
    exact ⟨q, hq.poll_eq, hresponse⟩
  case ends =>
    cases hb : s.busy with
    | false => exact (hr.of_idle hb (hidle hb)).1
    | true => exact (hr.of_busy hb (hbusy hb)).1

/-! The transaction. -/

/-- The edges at which a host issues commands, with no completion due. -/
def commandEdges (is : List Instr) : List Edge := is.map fun i => Edge.presenting i false

/-- Commands carried out are their edges, one after the other. -/
theorem performAll_commands {is : List Instr} {s t : State} {rest : List Action} {dues : List Bool} {r : Performed}
    (hrun : EdgeRun (commandEdges is) s t) (hr : performAll rest dues t = .next r) :
    performAll (is.map .command ++ rest) dues s = .next (r.after is) := by
  induction is generalizing s with
  | nil =>
    cases hrun
    exact hr
  | cons i is ih =>
    obtain _ | ⟨he, hrest⟩ := hrun
    exact performAll_command he (ih hrest)

/-- The commands that load a key and a counter. -/
theorem loads_of_mem_commandEdges {k c : Bytes} {e : Edge} (he : e ∈ commandEdges (k.map .keyb ++ c.map .ctrb)) :
    e.loads = true := by
  simp only [commandEdges, List.map_append, List.map_map, List.mem_append, List.mem_map, Function.comp_apply] at he
  obtain ⟨b, -, rfl⟩ | ⟨b, -, rfl⟩ := he
  · rw [Edge.loads, decoded_presenting]; rfl
  · rw [Edge.loads, decoded_presenting]; rfl

theorem keyBytes_commandEdges (k c : Bytes) : keyBytes (commandEdges (k.map .keyb ++ c.map .ctrb)) = k := by
  simp [keyBytes, commandEdges, List.filterMap_map, Function.comp_def, Edge.keyByte?, decoded_presenting]

theorem ctrBytes_commandEdges (k c : Bytes) : ctrBytes (commandEdges (k.map .keyb ++ c.map .ctrb)) = c := by
  simp [ctrBytes, commandEdges, List.filterMap_map, Function.comp_def, Edge.ctrByte?, decoded_presenting]

/-- The commands before the loop of a transaction start the computation on the key and the counter, from any state. -/
theorem edgeRun_hotpStart {k : Bytes} (c : BitVec 64) (s : State) (hk : k.length ≤ Config.keyMax) :
    ∃ t, EdgeRun (commandEdges (hotpStart k c (BitVec.ofNat 12 k.length))) s t ∧ Running k (be8 c) t := by
  have hclr : clockEdge (Edge.presenting .clr false) s = .next s.resetStep := by
    rw [clockEdge_presenting false (decode_encode .clr) (exec_clr s), enginePhase_not_due]
  obtain ⟨t, hload, ht⟩ := edgeRun_loads (es := commandEdges (k.map .keyb ++ (be8 c).map .ctrb)) (k := []) (c := [])
    (s := s.resetStep) ⟨rfl, rfl, rfl, rfl⟩ (fun e he => loads_of_mem_commandEdges he) (by rwa [keyBytes_commandEdges])
    (by rw [ctrBytes_commandEdges]; simp)
  rw [keyBytes_commandEdges, ctrBytes_commandEdges, List.nil_append, List.nil_append] at ht
  obtain ⟨u, hgo, hu⟩ := clockEdge_go ht hk (be8_length c) false
  refine ⟨u, ?_, hu⟩
  have hrun := EdgeRun.cons hclr (hload.append (.singleton hgo))
  simpa [hotpStart, ldkey, ldctr, commandEdges] using hrun

/-- Settles O54: the commands before the loop start the computation, the loop ends after its completion, and `RDCODE` answers
its code. -/
theorem hotpPseudoInstructionReturnsTheCode : Obligations.HotpPseudoInstructionReturnsTheCode := by
  intro k c dues s hk hdue
  obtain ⟨t, hstart, ht⟩ := edgeRun_hotpStart c s hk
  obtain ⟨p, hp⟩ := exists_pollRun dues t
  obtain ⟨hended, harch⟩ := hp.of_busy ht.busy hdue
  have hcode : p.state.arch = ([], [], hotp k c, false, true, 0#5) := by
    rw [harch, engineComplete_arch, ht.key, ht.ctr, memRead_of_length (be8_length c), ht.err]
    rfl
  have hread : clockEdge (Edge.presenting .rdcode false) p.state = .next (p.state.respond p.state.codeword) := by
    rw [clockEdge_presenting false (decode_encode .rdcode) (exec_rdcode _), enginePhase_not_due]
  have hlast := performAll_command hread (rest := []) (dues := p.dues) rfl
  have hall := performAll_commands hstart (performAll_poll hp.poll_eq hended hlast)
  have hexpand : (Pseudo.hotp k c).expand = some ((hotpStart k c (BitVec.ofNat 12 k.length)).map .command ++
      [.poll, .command .rdcode]) := by
    have hmax := keyMax_range.2
    exact if_pos (by omega)
  refine ⟨_, _, p.commands.length, hexpand, hall, rfl, ?turns, ?commands, rfl, ?response, hcode⟩
  case turns => exact (hp.response_of_ended hended).1
  case commands =>
    rw [← hp.commands_eq]
    simp [hotpStart, ldkey, ldctr]
  case response =>
    simp only [State.arch, Prod.mk.injEq] at hcode
    obtain ⟨-, -, hcode, -, hdone, -⟩ := hcode
    exact (codeword_of_done hdone).trans (by rw [hcode])

end Sys2Proof.Machine
end

section
/-! The canonical printed form of a command and the reader: the line's words, the mnemonic and the number
(30_encoding.md R53). -/
namespace Sys2Proof.Machine

/-! Words without a special character. -/

/-- A character that neither ends a word nor begins a comment, a quoted text or an annotation. -/
def isPlain (c : Char) : Bool := !isSeparator c && c != ';' && c != '"' && c != ',' && c != '('

/-- A word of plain characters. -/
structure PlainWord (word : List Char) : Prop where
  ne_nil : word ≠ []
  plain : ∀ c ∈ word, isPlain c = true

theorem isPlain_iff (c : Char) :
    isPlain c = true ↔ isSeparator c = false ∧ c ≠ ';' ∧ c ≠ '"' ∧ c ≠ ',' ∧ c ≠ '(' := by
  simp [isPlain, and_assoc]

/-- A line's text before its comment stays. -/
theorem uncomment_append {cs rest : List Char} (h : ∀ c ∈ cs, c ≠ ';' ∧ c ≠ '"') :
    uncomment false (cs ++ rest) = cs ++ uncomment false rest := by
  induction cs with
  | nil => rfl
  | cons c cs ih =>
    obtain ⟨hsemicolon, hquote⟩ := h c List.mem_cons_self
    rw [List.cons_append, uncomment, if_neg (by simp [hsemicolon]), if_neg hquote,
      ih fun c' hc' => h c' (List.mem_cons_of_mem c hc'), List.cons_append]

/-- Plain characters join the word being read. -/
theorem splitWords_append {cs : List Char} (word rest : List Char) (h : ∀ c ∈ cs, isPlain c = true) :
    splitWords false word (cs ++ rest) = splitWords false (word ++ cs) rest := by
  induction cs generalizing word with
  | nil => rw [List.nil_append, List.append_nil]
  | cons c cs ih =>
    obtain ⟨hseparator, -, hquote, hcomma, -⟩ := (isPlain_iff c).1 (h c List.mem_cons_self)
    have hunquoted : (c == '"') = false := beq_eq_false_iff_ne.2 hquote
    rw [List.cons_append, splitWords, if_neg Bool.false_ne_true, hseparator, if_neg Bool.false_ne_true, if_neg hcomma,
      hunquoted, ih _ fun c' hc' => h c' (List.mem_cons_of_mem c hc'), List.append_assoc, List.singleton_append]

theorem closeWord_of_ne_nil {word : List Char} (h : word ≠ []) (rest : List (List Char)) :
    closeWord word rest = word :: rest := by
  rw [closeWord, if_neg (by simpa using h)]

/-- Words written with one space before each but the first, with or without a space after the last, are read back. -/
theorem splitWords_words {word : List Char} {words : List (List Char)} {tail : List Char} (hword : PlainWord word)
    (hwords : ∀ w ∈ words, PlainWord w) (htail : tail = [] ∨ tail = [' ']) :
    splitWords false [] (word ++ (words.flatMap (' ' :: ·) ++ tail)) = word :: words := by
  induction words generalizing word with
  | nil =>
    rw [splitWords_append _ _ hword.plain]
    obtain rfl | rfl := htail
    · exact closeWord_of_ne_nil hword.ne_nil _
    · exact closeWord_of_ne_nil hword.ne_nil _
  | cons w ws ih =>
    rw [splitWords_append _ _ hword.plain, List.flatMap_cons, List.append_assoc, List.cons_append]
    have hrest := ih (hwords w List.mem_cons_self) fun w' hw' => hwords w' (List.mem_cons_of_mem w hw')
    exact (closeWord_of_ne_nil hword.ne_nil _).trans (congrArg _ hrest)

/-- A plain word is no annotation. -/
theorem timesCount?_of_plain {word : List Char} (h : PlainWord word) : timesCount? word = none := by
  unfold timesCount?
  split
  next rest =>
    obtain ⟨-, -, -, -, hparen⟩ := (isPlain_iff '(').1 (h.plain '(' List.mem_cons_self)
    exact absurd rfl hparen
  next => rfl

/-- A line of plain words holds no comment and no quoted text. -/
theorem uncomment_words {word : List Char} {words : List (List Char)} (hwords : ∀ w ∈ word :: words, PlainWord w)
    (rest : List Char) :
    uncomment false (word ++ words.flatMap (' ' :: ·) ++ rest) =
      word ++ words.flatMap (' ' :: ·) ++ uncomment false rest := by
  have plain {w : List Char} {c : Char} (hw : w ∈ word :: words) (hc : c ∈ w) : c ≠ ';' ∧ c ≠ '"' := by
    obtain ⟨-, hsemicolon, hquote, -⟩ := (isPlain_iff c).1 ((hwords w hw).plain c hc)
    exact ⟨hsemicolon, hquote⟩
  refine uncomment_append fun c hc => ?_
  obtain hc | hc := List.mem_append.1 hc
  · exact plain List.mem_cons_self hc
  · obtain ⟨w, hw, hc⟩ := List.mem_flatMap.1 hc
    obtain rfl | hc := List.mem_cons.1 hc
    · decide
    · exact plain (List.mem_cons_of_mem word hw) hc

/-- A line without its comment that splits into plain words is the line of these words. -/
theorem assembleLine_of_words {cs : List Char} {words : List (List Char)} (hwords : ∀ w ∈ words, PlainWord w)
    (hsplit : splitWords false [] (uncomment false cs) = words) : assembleLine cs = assembleWords [] words := by
  have hlast : words.getLast?.bind timesCount? = none := by
    cases hw : words.getLast? with
    | none => rfl
    | some w => exact timesCount?_of_plain (hwords w (List.mem_of_getLast? hw))
  simp only [assembleLine, readLine, hsplit, hlast]

/-- A line of plain words, with or without a comment, is the line of these words. -/
theorem assembleLine_words {word : List Char} {words : List (List Char)} (hwords : ∀ w ∈ word :: words, PlainWord w) :
    assembleLine (word ++ words.flatMap (' ' :: ·)) = assembleWords [] (word :: words) ∧
    ∀ comment, assembleLine (word ++ words.flatMap (' ' :: ·) ++ ' ' :: ';' :: comment) =
      assembleWords [] (word :: words) := by
  have hsplit {tail : List Char} (htail : tail = [] ∨ tail = [' ']) :
      splitWords false [] (word ++ words.flatMap (' ' :: ·) ++ tail) = word :: words := by
    rw [List.append_assoc]
    exact splitWords_words (hwords word List.mem_cons_self) (fun w hw => hwords w (List.mem_cons_of_mem word hw)) htail
  refine ⟨assembleLine_of_words hwords ?bare, fun comment => assembleLine_of_words hwords ?commented⟩
  case bare =>
    have hbare := uncomment_words hwords []
    rw [List.append_nil] at hbare
    rw [hbare]
    exact hsplit (.inl rfl)
  case commented =>
    rw [uncomment_words hwords]
    exact hsplit (.inr rfl)

/-! Numbers. -/

/-- A digit's character is plain, and is read as the digit. -/
theorem digitChar_spec :
    ∀ d < 16, isPlain (digitChar d) = true ∧ digitChar d ≠ 'x' ∧ digitValue? 16 (digitChar d) = some d := by
  decide

theorem digitValue?_ten_digitChar : ∀ d < 10, digitValue? 10 (digitChar d) = some d := by
  decide

/-- `b` is read back from its hexadecimal form. -/
theorem number?_hexByteText (b : Byte) : number? (hexByteText b) = some b.toNat := by
  have hb : b.toNat < 256 := b.isLt
  obtain ⟨-, -, hhigh⟩ := digitChar_spec (b.toNat / 16) (by omega)
  obtain ⟨-, -, hlow⟩ := digitChar_spec (b.toNat % 16) (by omega)
  rw [hexByteText, number?]
  · simp only [digitsValue?, hhigh, hlow, Option.some.injEq]
    omega
  · nofun

/-- Leading zeros do not count. -/
theorem digitsValue?_dropLeadingZeros (cs : List Char) :
    digitsValue? 10 0 (dropLeadingZeros cs) = digitsValue? 10 0 cs := by
  fun_induction dropLeadingZeros cs with
  | case1 => rfl
  | case2 c => rfl
  | case3 rest hrest ih =>
    have hzero : digitValue? 10 '0' = some 0 := by decide
    rw [ih, digitsValue?, hzero]
  | case4 c rest hrest hc => rfl

theorem mem_of_mem_dropLeadingZeros {c : Char} {cs : List Char} (h : c ∈ dropLeadingZeros cs) : c ∈ cs := by
  fun_induction dropLeadingZeros cs with
  | case1 => exact h
  | case2 c => exact h
  | case3 rest hrest ih => exact List.mem_cons_of_mem _ (ih h)
  | case4 c rest hrest hc => exact h

theorem dropLeadingZeros_ne_nil {cs : List Char} (h : cs ≠ []) : dropLeadingZeros cs ≠ [] := by
  fun_induction dropLeadingZeros cs with
  | case1 => exact h
  | case2 c => exact h
  | case3 rest hrest ih => exact ih (by rintro rfl; simp at hrest)
  | case4 c rest hrest hc => exact h

/-- Without an `x` a number is decimal. -/
theorem number?_of_decimal {cs : List Char} (hne : cs ≠ []) (hx : 'x' ∉ cs) : number? cs = digitsValue? 10 0 cs := by
  unfold number?
  split <;> simp_all

/-- Every character of the decimal form is a digit's. -/
theorem exists_digit_of_mem_decimalText {n : BitVec 12} {c : Char} (h : c ∈ decimalText n) :
    ∃ d < 10, c = digitChar d := by
  have hn : n.toNat < 4096 := n.isLt
  have hc := mem_of_mem_dropLeadingZeros h
  simp only [List.mem_cons, List.not_mem_nil, or_false] at hc
  obtain rfl | rfl | rfl | rfl := hc
  · exact ⟨_, by omega, rfl⟩
  · exact ⟨_, Nat.mod_lt _ (by decide), rfl⟩
  · exact ⟨_, Nat.mod_lt _ (by decide), rfl⟩
  · exact ⟨_, Nat.mod_lt _ (by decide), rfl⟩

/-- `n` is read back from its decimal form. -/
theorem number?_decimalText (n : BitVec 12) : number? (decimalText n) = some n.toNat := by
  have hn : n.toNat < 4096 := n.isLt
  have hx : 'x' ∉ decimalText n := by
    intro hx
    obtain ⟨d, hd, heq⟩ := exists_digit_of_mem_decimalText hx
    exact (digitChar_spec d (by omega)).2.1 heq.symm
  have hne : decimalText n ≠ [] := dropLeadingZeros_ne_nil (List.cons_ne_nil _ _)
  rw [number?_of_decimal hne hx, decimalText, digitsValue?_dropLeadingZeros]
  simp only [digitsValue?, digitValue?_ten_digitChar _ (show n.toNat / 1000 < 10 by omega),
    digitValue?_ten_digitChar _ (Nat.mod_lt _ (show 10 > 0 by decide)), Option.some.injEq]
  omega

/-! The printed words of a command. -/

/-- The operand's word, where the command has an operand. -/
def operandWords : Instr → List (List Char)
  | .keyb b => [hexByteText b]
  | .ctrb b => [hexByteText b]
  | .go n => [decimalText n]
  | .clr => []
  | .rdstat => []
  | .rdcode => []

theorem printCommand_eq (i : Instr) :
    printCommand i = mnemonicText i.mnemonic ++ (operandWords i).flatMap (' ' :: ·) := by
  cases i <;> simp [printCommand, operandText, operandWords]

theorem plainWord_mnemonicText (m : Mnemonic) : PlainWord (mnemonicText m) := by
  cases m <;> exact ⟨List.cons_ne_nil _ _, List.all_eq_true.1 (by decide)⟩

theorem plainWord_hexByteText (b : Byte) : PlainWord (hexByteText b) := by
  have hb : b.toNat < 256 := b.isLt
  obtain ⟨hhigh, -⟩ := digitChar_spec (b.toNat / 16) (by omega)
  obtain ⟨hlow, -⟩ := digitChar_spec (b.toNat % 16) (by omega)
  have hzero : isPlain '0' = true := by decide
  have hx : isPlain 'x' = true := by decide
  exact ⟨List.cons_ne_nil _ _, by simp [hexByteText, hhigh, hlow, hzero, hx]⟩

theorem plainWord_decimalText (n : BitVec 12) : PlainWord (decimalText n) := by
  refine ⟨dropLeadingZeros_ne_nil (List.cons_ne_nil _ _), fun c hc => ?_⟩
  obtain ⟨d, hd, rfl⟩ := exists_digit_of_mem_decimalText hc
  exact (digitChar_spec d (by omega)).1

theorem plainWord_printed {i : Instr} : ∀ w ∈ mnemonicText i.mnemonic :: operandWords i, PlainWord w := by
  intro w hw
  obtain rfl | hw := List.mem_cons.1 hw
  · exact plainWord_mnemonicText _
  · cases i with
    | keyb b => obtain rfl := List.mem_singleton.1 hw; exact plainWord_hexByteText b
    | ctrb b => obtain rfl := List.mem_singleton.1 hw; exact plainWord_hexByteText b
    | go n => obtain rfl := List.mem_singleton.1 hw; exact plainWord_decimalText n
    | clr => exact absurd hw List.not_mem_nil
    | rdstat => exact absurd hw List.not_mem_nil
    | rdcode => exact absurd hw List.not_mem_nil

/-- A mnemonic is no other word that begins a line, and is found among the six. -/
theorem assembleWords_mnemonicText (m : Mnemonic) (operands : List (List Char)) :
    assembleWords [] (mnemonicText m :: operands) = assembleOperands m operands := by
  cases m <;> rfl

/-- An operand is in range by its type (30_encoding.md R47). -/
theorem source_wellFormed (i : Instr) : i.source.wellFormed = true := by
  cases i with
  | clr | rdstat | rdcode => rfl
  | keyb b | ctrb b => exact decide_eq_true b.isLt
  | go n => exact decide_eq_true n.isLt

/-- A command's source assembles to the command. -/
theorem assembleSource_source (i : Instr) : assembleSource i.source = .line (.command i) := by
  have hwf := source_wellFormed i
  cases i with
  | clr | rdstat | rdcode => rfl
  | keyb b | ctrb b => exact (if_pos hwf).trans (by rw [BitVec.ofNat_toNat, BitVec.setWidth_eq])
  | go n => exact (if_pos hwf).trans (by rw [BitVec.ofNat_toNat, BitVec.setWidth_eq])

/-- The operand's word is read as the operand of the source. -/
theorem assembleOperands_operandWords (i : Instr) :
    assembleOperands i.mnemonic (operandWords i) = assembleSource i.source := by
  cases i with
  | clr | rdstat | rdcode => rfl
  | keyb b | ctrb b => rw [operandWords, assembleOperands, number?_hexByteText]; rfl
  | go n => rw [operandWords, assembleOperands, number?_decimalText]; rfl

/-- Settles O5: the printed form is plain words, which are read as the mnemonic and the number they were printed from. -/
theorem printedCommandReadsBack : Obligations.PrintedCommandReadsBack := by
  intro i
  have hread := assembleLine_words (plainWord_printed (i := i))
  rwa [assembleWords_mnemonicText, assembleOperands_operandWords, assembleSource_source, ← printCommand_eq] at hread

end Sys2Proof.Machine
end
